-- ==== Sys2Proof/Word.lean ====
section
/-! DEFINITION. The widths the block moves (00_scope.md R7, R8; 20_memory.md R47). -/

namespace Sys2Proof

/-- A byte, u8 (00_scope.md R7). -/
abbrev Byte := BitVec 8

/-- A u16: the `len` field and LLEN (00_scope.md R4, LEN_WIDTH). -/
abbrev Half := BitVec 16

/-- A 32-bit word: a header, an operand, CNT, FAULTHDR (00_scope.md R4; 20_memory.md R47). -/
abbrev Word := BitVec 32

/-- What the command port presents at one time: a 32-bit header or operand word, or one payload
byte (20_memory.md R47; 30_encoding.md R60). -/
inductive Beat where
  | word (w : Word)
  | byte (b : Byte)
  deriving DecidableEq, Repr

end Sys2Proof
end

