-- ==== Sys2Proof/Config.lean ====
section
/-! DEFINITION. The fixed parameters (00_scope.md R4) and the free values. -/

namespace Sys2Proof.Config

/-- MAGIC, first byte (00_scope.md R4; 30_encoding.md R66). -/
def magic0 : Byte := 0xAA

/-- MAGIC, second byte (00_scope.md R4; 30_encoding.md R66). -/
def magic1 : Byte := 0x55

/-- TYPE_TELEMETRY (00_scope.md R4). -/
def typeTelemetry : Byte := 0x01

/-- MAX_PAYLOAD (00_scope.md R4; 30_encoding.md R72). -/
def maxPayload : Nat := 65535

/-- FRAME_OVERHEAD (00_scope.md R4; 30_encoding.md R67). -/
def frameOverhead : Nat := 6

/-- TLM_PAYLOAD_LEN (00_scope.md R4). -/
def tlmPayloadLen : Half := 8

/-- TLM_FRAME_LEN (00_scope.md R4; 30_encoding.md R67). -/
def tlmFrameLen : Nat := 14

/-- COUNTER_RESET (00_scope.md R4; 70_reset_and_hazards.md R170). -/
def counterReset : Word := 0

/-- Free value: what IDX holds in IDLE after a command (10_state.md R31; 93_implementation_defined.md
item 14, "any value; never read in IDLE"). Log entry 5. -/
opaque freeIdx : Nat → Half

/-- Free value: what ACC holds in IDLE after a command. Log entry 5. -/
opaque freeAcc : Nat → Byte

/-- Free value: what LTYPE holds in IDLE after a command. Log entry 5. -/
opaque freeLtype : Nat → Byte

/-- Free value: what LLEN holds in IDLE after a command. Log entry 5. -/
opaque freeLlen : Nat → Half

/-- Free value: what LPAY holds in IDLE after a command. Log entry 5. -/
opaque freeLpay : Nat → List Byte

end Sys2Proof.Config
end

