-- ==== Sys2Proof/Machine/Operands.lean ====
section
/-! DEFINITION. Bit fields, byte orders and the operand forms of a command (00_scope.md R6, R8;
30_encoding.md R61, R64, R65). -/

namespace Sys2Proof.Machine

/-- `byte_k(v)` of a 32-bit value: `v[8k+7:8k]` (00_scope.md R6). -/
def byteOf (k : Nat) (v : Word) : Byte := v.extractLsb' (8 * k) 8

/-- `le32(v)`, least significant byte first (00_scope.md R8; 20_memory.md R43). -/
def le32 (v : Word) : List Byte := [byteOf 0 v, byteOf 1 v, byteOf 2 v, byteOf 3 v]

/-- High byte of a u16, `n[15:8]` (40_length_encoder.md R81). -/
def hiByte (n : Half) : Byte := n.extractLsb' 8 8

/-- Low byte of a u16, `n[7:0]` (40_length_encoder.md R81). -/
def loByte (n : Half) : Byte := n.extractLsb' 0 8

/-- `be16(v)`, most significant byte first (00_scope.md R8; 20_memory.md R42). -/
def be16 (n : Half) : List Byte := [hiByte n, loByte n]

/-- `sint32(u)`: the s32 whose two's-complement pattern is `u` (00_scope.md R8). -/
def sint32 (u : Word) : Int := u.toInt

/-- `bits32(w)`: the 32-bit pattern of an s32 (00_scope.md R8). Outside the s32 range, where the spec says
nothing (91_not_in_source.md, file 43), the pattern modulo 2^32 is a DESIGN CHOICE (log entry 18); no step
of the block asks for it. -/
def bits32 (w : Int) : Word := BitVec.ofInt 32 w

/-- The values an s32 takes, `-2^31 .. 2^31-1` (00_scope.md R8). -/
abbrev IsS32 (w : Int) : Prop := -(2 ^ 31) ≤ w ∧ w < 2 ^ 31

/-- The number a byte sequence stands for, least significant byte first: the little-endian view of
20_memory.md R45 and 43_telemetry_serializer.md R132. -/
def leValue : List Byte → Nat
  | [] => 0
  | b :: bs => b.toNat + 256 * leValue bs

/-- Header field `op`, bits 31:24 (30_encoding.md R61). -/
def opField (hdr : Word) : Byte := hdr.extractLsb' 24 8

/-- Header field `type`, bits 23:16 (30_encoding.md R61, R64). -/
def typeField (hdr : Word) : Byte := hdr.extractLsb' 16 8

/-- Header field `len`, bits 15:0, an unsigned byte count (30_encoding.md R61, R64). -/
def lenField (hdr : Word) : Half := hdr.extractLsb' 0 16

/-- Bits 23:0, reserved in a TLM header (30_encoding.md R61, R63). -/
def reservedField (hdr : Word) : BitVec 24 := hdr.extractLsb' 0 24

/-- TLM's operand: `w` read as an s32 (30_encoding.md R65). -/
def weightOf (w : Word) : Int := sint32 w

end Sys2Proof.Machine
end

