-- ==== Sys2Proof/Machine/Length.lean ====
section
/-! DEFINITION. big_endian_length_encoder (40_length_encoder.md). -/

namespace Sys2Proof.Machine

/-- `LenEncode(n)`: the bytes `(hi, lo)`, `hi` emitted first (40_length_encoder.md R80, R81). -/
def lenEncode (n : Half) : Byte × Byte := (hiByte n, loByte n)

/-- What a receiver recovers from the two bytes (40_length_encoder.md R83). -/
def lenDecode (hi lo : Byte) : Nat := hi.toNat * 256 + lo.toNat

end Sys2Proof.Machine
end

