-- ==== Sys2Proof/Machine/Checksum.lean ====
section
/-! DEFINITION. xor_checksum_generator (41_checksum.md). -/

namespace Sys2Proof.Machine

/-- `acc xor b`, one turn of the fold and one update of ACC (41_checksum.md R91, R95). -/
def accumulate (acc b : Byte) : Byte := acc ^^^ b

/-- `XorFold(s)`, seed 0x00 (41_checksum.md R91). -/
def xorFold (s : List Byte) : Byte := s.foldl accumulate 0x00

/-- What is checksummed, in the source's order: type, length high byte, length low byte, payload
(41_checksum.md R92). -/
def checksummed (t : Byte) (n : Half) (p : List Byte) : List Byte :=
  [t, (lenEncode n).1, (lenEncode n).2] ++ p

end Sys2Proof.Machine
end

