-- ==== Sys2Proof/Syntax.lean ====
section
/-! DEFINITION. The commands, one constructor for each row of spec/opcode_table.json. -/

namespace Sys2Proof

/-- A command in the abstract form of 30_encoding.md R72. A header that faults, R72's `Raw`, is no row
of the table: see `Command` in Sys2Proof/Decode.lean. -/
inductive Instr where
  /-- FRAME (42_packet_framer.md R101): `type` and payload, payload[0] first. -/
  | frame (type : Byte) (payload : List Byte)
  /-- TLM (43_telemetry_serializer.md R133): the 32-bit operand word, the weight's pattern
  (30_encoding.md R65). -/
  | tlm (weight : Word)
  deriving DecidableEq, Repr

end Sys2Proof
end

