-- ==== Sys2Proof/WellFormed.lean ====
section
/-! DEFINITION. Which command terms have a meaning (30_encoding.md R72). -/

namespace Sys2Proof

/-- A payload the `len` field can count: at most 65535 bytes (30_encoding.md R72; 60_exceptions.md
R157). -/
abbrev PayloadFits (p : List Byte) : Prop := p.length ≤ Config.maxPayload

/-- A `Frame` term is well-formed only if its payload has at most 65535 bytes; every `Tlm` term is
(30_encoding.md R72). -/
def Instr.wf : Instr → Bool
  | .frame _ p => decide (PayloadFits p)
  | .tlm _ => true

/-- `Instr.wf` as a proposition. -/
abbrev Instr.WellFormed (i : Instr) : Prop := i.wf = true

end Sys2Proof
end

