-- ==== Sys2Proof/Decode.lean ====
section
/-! DEFINITION. Decoding what the command port presents, and after it the encoder
(30_encoding.md R60 to R65, R70 to R72). -/

namespace Sys2Proof

open Machine

/-- The two fault causes a header can raise (10_state.md R24; 60_exceptions.md R150). -/
inductive Cause where
  | illegalOp
  | reservedNonzero
  deriving DecidableEq, Repr

/-- What a header word decodes to (30_encoding.md R63). -/
inductive Decoded where
  | frame (type : Byte) (len : Half)
  | tlm
  | fault (cause : Cause)
  deriving DecidableEq, Repr

/-- `decode(hdr)`, in the order 30_encoding.md R63 gives: `op` first, the reserved bits only when
`op = 0x02`. -/
def decodeHeader (hdr : Word) : Decoded :=
  if opField hdr = 0x01 then .frame (typeField hdr) (lenField hdr)
  else if opField hdr = 0x02 then
    if reservedField hdr = 0 then .tlm else .fault .reservedNonzero
  else .fault .illegalOp

/-- The first `n` payload bytes of the port and what follows them; none while fewer are presented
(30_encoding.md R64; 60_exceptions.md R166 row 5). -/
def takeBytes : Nat → List Beat → Option (List Byte × List Beat)
  | 0, bs => some ([], bs)
  | n + 1, .byte b :: bs => (takeBytes n bs).map fun r => (b :: r.1, r.2)
  | _ + 1, _ => none

/-- What the port presents, read as one whole command. -/
inductive Fetched where
  /-- No header word is presented. -/
  | noHeader
  /-- A header is presented and not yet all of its data (60_exceptions.md R166 row 5). -/
  | dataPending
  /-- A header that faults, alone, and what follows it (30_encoding.md R62). -/
  | faulty (cause : Cause) (hdr : Word) (rest : List Beat)
  /-- A command with all of its data, and what follows it. -/
  | command (i : Instr) (rest : List Beat)
  deriving DecidableEq, Repr

/-- One whole command from the front of the port: the header gives the length of the command
(30_encoding.md R60, R62, R64, R65). Total on every sequence of beats. -/
def fetch : List Beat → Fetched
  | .word hdr :: rest =>
    match decodeHeader hdr with
    | .frame t n =>
      match takeBytes n.toNat rest with
      | some (p, rest') => .command (.frame t p) rest'
      | none => .dataPending
    | .tlm =>
      match rest with
      | .word w :: rest' => .command (.tlm w) rest'
      | _ => .dataPending
    | .fault k => .faulty k hdr rest
  | _ => .noHeader

/-- `n` data bytes out of the bits of `v`, the first in bits 7:0. -/
def dataBytes : Nat → Nat → List Byte
  | 0, _ => []
  | n + 1, v => BitVec.ofNat 8 v :: dataBytes n (v / 256)

/-- The beats of a command whose bits are `w`, numbered as spec/opcode_table.json numbers them: bits
31:0 the header, the bits above it the operand word or the payload bytes in order; every bit from
`nbits` on is 0. -/
def tableBeats (nbits w : Nat) : List Beat :=
  let v := w % 2 ^ nbits
  let hdr : Word := BitVec.ofNat 32 v
  match decodeHeader hdr with
  | .frame _ n => .word hdr :: (dataBytes n.toNat (v / 2 ^ 32)).map .byte
  | .tlm => [.word hdr, .word (BitVec.ofNat 32 (v / 2 ^ 32))]
  | .fault _ => [.word hdr]

/-- The instruction the decoder reads from the bits `w` of an opcode-table row; none where the header
faults. -/
def decodeTableWord (nbits w : Nat) : Option Instr :=
  match fetch (tableBeats nbits w) with
  | .command i _ => some i
  | _ => none

/-! The encoder. -/

/-- Header of a FRAME: `(0x01 << 24) + (t << 16) + n` (30_encoding.md R61, R72). -/
def frameHeader (t : Byte) (n : Half) : Word := (0x01#8 ++ t) ++ n

/-- Header of a TLM (30_encoding.md R70, R72). -/
def tlmHeader : Word := 0x02000000

/-- The encoded form of a well-formed command (30_encoding.md R72). The spec gives an over-long `Frame`
term no encoded form; DESIGN CHOICE (log entry 17): it gets no beats at all, so no length is ever
truncated, and presenting it is refused (`State.present`). -/
def encode : Instr → List Beat
  | .frame t p =>
    if PayloadFits p then .word (frameHeader t (BitVec.ofNat 16 p.length)) :: p.map .byte else []
  | .tlm w => [.word tlmHeader, .word w]

/-- The abstract command of 30_encoding.md R72: a table row's command, or `Raw(hdr)` for a header that
faults. -/
inductive Command where
  | instr (i : Instr)
  | raw (hdr : Word)
  deriving DecidableEq, Repr

/-- R72's well-formedness: `Raw` stands only for a header that R63 faults. -/
def Command.WellFormed : Command → Prop
  | .instr i => i.WellFormed
  | .raw hdr => ∃ k, decodeHeader hdr = .fault k

/-- What the controller presents on the port for a command that is not refused; a faulting header is
presented alone (30_encoding.md R71, R72). So is, by DESIGN CHOICE, a `Raw` header that does not fault (log
entry 20). -/
def Command.encode : Command → List Beat
  | .instr i => Sys2Proof.encode i
  | .raw hdr => [.word hdr]

/-- A line of a command program (30_encoding.md R71): FRAME, TLM and `.hdr` lines are commands; RESET
asserts the reset input and is none. -/
inductive Line where
  | command (c : Command)
  | reset
  deriving DecidableEq, Repr

end Sys2Proof
end

