-- ==== Sys2Proof/Machine/State.lean ====
section
/-! DEFINITION. All the state the spec gives the block (10_state.md), the inputs of a run, and the
state after reset. -/

namespace Sys2Proof.Machine

/-- An event of the output trace (10_state.md R28). -/
inductive Event where
  | byte (b : Byte)
  | flush
  deriving DecidableEq, Repr

/-- PHASE of the byte-serial framer (10_state.md R32). -/
inductive Phase where
  | idle
  | magic0
  | magic1
  | type
  | lenHi
  | lenLo
  | payload
  | chk
  | flush
  deriving DecidableEq, Repr

/-- The two levels of 42_packet_framer.md R108 a run can be taken at: one command a step (normative,
92_eei_decisions.md D1), or one transfer a step (R106, R107). Log entry 1. -/
inductive Level where
  | transaction
  | byteSerial
  deriving DecidableEq, Repr

/-- The block's two input wires during one step: the reset input (70_reset_and_hazards.md R170) and
whether the sink accepts what it is offered (42_packet_framer.md R109). Log entry 3. -/
structure Pins where
  reset : Bool
  sinkReady : Bool
  deriving DecidableEq, Repr

/-- Why a definition of the model stops with a fault. No step of the block does: the spec's own faults
are states (60_exceptions.md R151), which `step` answers as next states. -/
inductive Fault where
  /-- Raised by `readCause` alone, on a STATUS whose CAUSE field holds a code 3 to 7, which the block
  never writes (10_state.md R24; 93_implementation_defined.md item 11). Safe. -/
  | reservedCause
  deriving DecidableEq, Repr

/-- Why a command has no meaning. -/
inductive Refusal where
  /-- Raised by an arm of `exec` for an instruction that has no meaning yet. No arm raises it. Safe. -/
  | notModelled (mnemonic : String)
  /-- Raised by FRAME and by presenting a line of a program, on an abstract term whose payload is longer
  than 65535 bytes, which the spec refuses (60_exceptions.md R157); no port can carry it. Safe. -/
  | payloadTooLong
  deriving DecidableEq, Repr

/-- The state. The first four fields are the architectural state (10_state.md R20), the next six the
byte-serial framer's (R32); then the inputs of the run and the position in them (R29, R30); `level`
and `freeCount` are the model's own. -/
structure State where
  /-- CNT, the sequence counter (10_state.md R21). -/
  cnt : Word
  /-- STATUS (10_state.md R22); its fields are in Machine/Flags.lean. -/
  status : Byte
  /-- FAULTHDR (10_state.md R26). -/
  faultHdr : Word
  /-- OUT, first event first (10_state.md R28). -/
  out : List Event
  /-- PHASE (10_state.md R32). -/
  phase : Phase
  /-- IDX, index of the next payload byte (10_state.md R32). -/
  idx : Half
  /-- ACC, the running checksum (10_state.md R32; 41_checksum.md R95). -/
  acc : Byte
  /-- LTYPE, the latched type (10_state.md R32). -/
  ltype : Byte
  /-- LLEN, the latched length (10_state.md R32). -/
  llen : Half
  /-- LPAY, the latched payload bytes (10_state.md R32). -/
  lpay : List Byte
  /-- What the command port will present, next beat first (10_state.md R29). -/
  port : List Beat
  /-- The input wires of the steps to come, next step first. -/
  pins : List Pins
  /-- The input wires of every step after the end of `pins`: a sink that never accepts again, or one
  that does (70_reset_and_hazards.md R178). -/
  pinsAfter : Pins
  /-- How many commands the block has consumed (10_state.md R29, R30). -/
  pos : Nat
  /-- The level of the run. -/
  level : Level
  /-- How many times free values have been drawn (log entry 5). -/
  freeCount : Nat
  deriving DecidableEq, Repr

/-- The block right after power-on (10_state.md R31; 70_reset_and_hazards.md R170), with nothing
presented to it. -/
def State.reset : State where
  cnt := Config.counterReset
  status := 0x00
  faultHdr := 0x00000000
  out := []
  phase := .idle
  idx := 0
  acc := 0
  ltype := 0
  llen := 0
  lpay := []
  port := []
  pins := []
  pinsAfter := { reset := false, sinkReady := true }
  pos := 0
  level := .transaction
  freeCount := 0

end Sys2Proof.Machine
end

