-- ==== Sys2Proof/Machine/Flags.lean ====
section
/-! DEFINITION. The fields of STATUS and the status output (10_state.md R22 to R26; 20_memory.md R51). -/

namespace Sys2Proof.Machine

/-- STATUS.FAULT, bit 0 (10_state.md R22). -/
def faultBit (status : Byte) : BitVec 1 := status.extractLsb' 0 1

/-- STATUS.CAUSE, bits 3:1 (10_state.md R22). -/
def causeField (status : Byte) : BitVec 3 := status.extractLsb' 1 3

/-- STATUS bits 7:4, hardwired 0 (10_state.md R22). -/
def statusReserved (status : Byte) : BitVec 4 := status.extractLsb' 4 4

/-- The code a cause writes into STATUS.CAUSE (10_state.md R24; 60_exceptions.md R150). -/
def causeCode : Cause → BitVec 3
  | .illegalOp => 1
  | .reservedNonzero => 2

/-- A STATUS value from its two fields; bits 7:4 are hardwired 0 (10_state.md R22). -/
def makeStatus (fault : BitVec 1) (cause : BitVec 3) : Byte := (0x0#4 ++ cause) ++ fault

/-- The value of STATUS on the status output: bits 7:4 always read 0 (10_state.md R22). -/
def State.readStatus (s : State) : Byte := s.status &&& 0x0F

/-- Whether the block is in the fault state, STATUS.FAULT = 1 (10_state.md R23). -/
def State.faulted (s : State) : Bool := faultBit s.readStatus == 1

/-- Writes both fields of STATUS; nothing but fault entry and reset does so (10_state.md R23, R27). -/
def State.writeStatus (s : State) (fault : BitVec 1) (cause : BitVec 3) : State :=
  { s with status := makeStatus fault cause }

/-- Reads STATUS.CAUSE: none is NONE; a reserved code, which the block never writes, is a fault
(10_state.md R24; 93_implementation_defined.md item 11). -/
def State.readCause (s : State) : Except Fault (Option Cause) :=
  match (causeField s.readStatus).toNat with
  | 0 => .ok none
  | 1 => .ok (some .illegalOp)
  | 2 => .ok (some .reservedNonzero)
  | _ => .error .reservedCause

/-- The status output: STATUS and FAULTHDR side by side, after the last completed step (10_state.md
R22, R26, R27; 20_memory.md R51 e). -/
def State.statusOutput (s : State) : Byte × Word := (s.readStatus, s.faultHdr)

/-- What the controller may take from the status output as a fault report: FAULTHDR means something
only while STATUS.FAULT = 1 (10_state.md R26; 60_exceptions.md R166 row 8). -/
def State.faultReport (s : State) : Option Word := if s.faulted then some s.faultHdr else none

end Sys2Proof.Machine
end

