-- ==== Sys2Proof/Machine/Ops.lean ====
section
/-! DEFINITION. The named operations on the state: the inputs, the output trace, entering the fault
state and leaving it by reset. -/

namespace Sys2Proof.Machine

/-- The input wires of this step: the next of the list, and after its end the lasting ones
(70_reset_and_hazards.md R170, R178). Log entry 3. -/
def State.pin (s : State) : Pins :=
  match s.pins with
  | [] => s.pinsAfter
  | p :: _ => p

/-- One step's input wires are past. -/
def State.tick (s : State) : State := { s with pins := s.pins.tail }

/-- The block has consumed one command and `rest` is what the port presents next (10_state.md R29,
R30). -/
def State.consume (s : State) (rest : List Beat) : State := { s with port := rest, pos := s.pos + 1 }

/-- The controller presents one more line of a program (30_encoding.md R71): a command's beats follow
on the port, a RESET is asserted in the next step (log entry 16). An over-long `Frame` term has no
encoded form and is refused, with no next state (30_encoding.md R72; 60_exceptions.md R157). A `Raw`
header is put on the port whatever it decodes to: for one that R63 does not fault, of which the spec says
nothing, that is a DESIGN CHOICE (log entry 20). -/
def State.present (s : State) (l : Line) : Host.Outcome State Fault Refusal :=
  match l with
  | .command (.instr i) =>
    if i.wf then .next { s with port := s.port ++ encode i } else .refused .payloadTooLong
  | .command (.raw hdr) => .next { s with port := s.port ++ (Command.raw hdr).encode }
  | .reset => .next { s with pins := { reset := true, sinkReady := true } :: s.pins }

/-- `emit(b)` (00_scope.md R9; 10_state.md R28). -/
def State.emit (s : State) (b : Byte) : State := { s with out := s.out ++ [.byte b] }

/-- `for b in bs: emit(b)`. -/
def State.emitAll (s : State) (bs : List Byte) : State := bs.foldl State.emit s

/-- `flush()` (00_scope.md R9; 20_memory.md R52). -/
def State.flush (s : State) : State := { s with out := s.out ++ [.flush] }

/-- A command is complete and the framer is in IDLE, where IDX, ACC, LTYPE, LLEN and LPAY hold any
value and are not read (10_state.md R31, R32; 42_packet_framer.md R102; 93_implementation_defined.md
item 14). Log entry 5. -/
def State.retire (s : State) : State :=
  { s with
    phase := .idle
    idx := Config.freeIdx s.freeCount
    acc := Config.freeAcc s.freeCount
    ltype := Config.freeLtype s.freeCount
    llen := Config.freeLlen s.freeCount
    lpay := Config.freeLpay s.freeCount
    freeCount := s.freeCount + 1 }

/-- A command may execute: STATUS.FAULT = 0 (60_exceptions.md R153) and no command is in progress
(70_reset_and_hazards.md R176). -/
def State.enabled (s : State) : Bool := !s.faulted && s.phase == .idle

/-- `raise Fault(k, hdr)`: taking a fault, the one way into the fault state (60_exceptions.md R151). -/
def State.enterFault (s : State) (k : Cause) (hdr : Word) : State :=
  { s.writeStatus 1 (causeCode k) with faultHdr := hdr }

/-- Is this beat a payload byte? -/
def isByteBeat : Beat → Bool
  | .byte _ => true
  | .word _ => false

/-- `reset()`, the one way out of the fault state (70_reset_and_hazards.md R170; 60_exceptions.md
R154). OUT is kept (R173). The rest of an interrupted FRAME's data is not consumed: after reset the
controller starts again with a header word (R172; log entry 6). -/
def State.applyReset (s : State) : State :=
  { s with
    cnt := Config.counterReset
    status := State.reset.status
    faultHdr := State.reset.faultHdr
    phase := .idle
    idx := State.reset.idx
    acc := State.reset.acc
    ltype := State.reset.ltype
    llen := State.reset.llen
    lpay := State.reset.lpay
    port := s.port.dropWhile isByteBeat }

end Sys2Proof.Machine
end

