-- ==== Sys2Proof/Machine/Framer.lean ====
section
/-! DEFINITION. The frame builder and the FRAME command (42_packet_framer.md). -/

namespace Sys2Proof.Machine

/-- `BuildFrame(t, p)` for `|p| <= 65535` (42_packet_framer.md R100; 30_encoding.md R66, R67). For a longer
payload, of which the spec says nothing, the length taken modulo 2^16 is a DESIGN CHOICE (log entry 21); no
step builds such a frame. -/
def buildFrame (t : Byte) (p : List Byte) : List Byte :=
  let n : Half := BitVec.ofNat 16 p.length
  let chk := xorFold (checksummed t n p)
  [Config.magic0, Config.magic1, t, (lenEncode n).1, (lenEncode n).2] ++ p ++ [chk]

/-- Emits a frame and the Flush that completes its command (42_packet_framer.md R101; 20_memory.md
R52). -/
def State.sendFrame (s : State) (t : Byte) (p : List Byte) : State :=
  ((s.emitAll (buildFrame t p)).flush).retire

/-- FRAME (42_packet_framer.md R101). A term too long to encode is refused (60_exceptions.md R157);
a command that is not enabled holds (60_exceptions.md R153; 70_reset_and_hazards.md R176). -/
def execFrame (t : Byte) (p : List Byte) (s : State) : Host.Outcome State Fault Refusal :=
  if p.length ≤ Config.maxPayload then
    if s.enabled then .next (s.sendFrame t p) else .next s
  else .refused .payloadTooLong

end Sys2Proof.Machine
end

