-- ==== Sys2Proof/Machine/Telemetry.lean ====
section
/-! DEFINITION. telemetry_serializer and the TLM command (43_telemetry_serializer.md). -/

namespace Sys2Proof.Machine

/-- TelemetryRecord (43_telemetry_serializer.md R130): `counter`, a u32, and `weight_g`, an s32 in
grams. The type lets `weightG` be any integer (log entry 18); the record a TLM builds has an s32. -/
structure TelemetryRecord where
  counter : Word
  weightG : Int
  deriving DecidableEq, Repr

/-- `Serialize(c, w)`: `le32(c) ++ le32(bits32(w))` (43_telemetry_serializer.md R131). -/
def serialize (r : TelemetryRecord) : List Byte := le32 r.counter ++ le32 (bits32 r.weightG)

/-- The record a TLM with operand `w` builds from the present CNT (43_telemetry_serializer.md R130,
R133; 30_encoding.md R65). -/
def State.record (s : State) (w : Word) : TelemetryRecord :=
  { counter := s.cnt, weightG := weightOf w }

/-- The counter update, modulo 2^32 (43_telemetry_serializer.md R134). -/
def State.bumpCounter (s : State) : State := { s with cnt := s.cnt + 1 }

/-- TLM (43_telemetry_serializer.md R133). A command that is not enabled holds (60_exceptions.md R153;
70_reset_and_hazards.md R176). -/
def execTlm (w : Word) (s : State) : Host.Outcome State Fault Refusal :=
  if s.enabled then
    .next (s.bumpCounter.sendFrame Config.typeTelemetry (serialize (s.record w)))
  else .next s

end Sys2Proof.Machine
end

