-- ==== Sys2Proof/Machine/Dispatch.lean ====
section
/-! DEFINITION. One arm for each command. -/

namespace Sys2Proof.Machine

def exec (i : Instr) (s : State) : Host.Outcome State Fault Refusal :=
  match i with
  | .frame type payload => Sys2Proof.Machine.execFrame type payload s
  | .tlm weight => Sys2Proof.Machine.execTlm weight s

end Sys2Proof.Machine
end

