-- ==== Sys2Proof/Machine/Serial.lean ====
section
/-! DEFINITION. The byte-serial framer (42_packet_framer.md R106, R107, R109). -/

namespace Sys2Proof.Machine

/-- What both commands latch when they start (42_packet_framer.md R106). -/
def State.latch (s : State) (t : Byte) (n : Half) (p : List Byte) : State :=
  { s with ltype := t, llen := n, acc := 0x00, idx := 0, lpay := p, phase := .magic0 }

/-- A FRAME starts: its payload bytes will be taken from the port as PAYLOAD needs them, so none is
latched yet (42_packet_framer.md R106; 10_state.md R32; log entry 7). -/
def State.startFrame (s : State) (t : Byte) (n : Half) : State := s.latch t n []

/-- A TLM starts: its record is latched and CNT updated in the same transition (42_packet_framer.md
R106; 43_telemetry_serializer.md R134). -/
def State.startTlm (s : State) (w : Word) : State :=
  s.bumpCounter.latch Config.typeTelemetry Config.tlmPayloadLen (serialize (s.record w))

/-- `ACC <- ACC xor b` (41_checksum.md R95). -/
def State.addToAcc (s : State) (b : Byte) : State := { s with acc := accumulate s.acc b }

/-- The byte LPAY[IDX] that PAYLOAD emits: already latched, or, for FRAME, the next data byte on the
port; none while the port does not present it (42_packet_framer.md R106, R107). -/
def State.payloadByte (s : State) : Option Byte :=
  match s.lpay[s.idx.toNat]? with
  | some b => some b
  | none =>
    match s.port with
    | .byte b :: _ => some b
    | _ => none

/-- Latches `b` into LPAY, and takes it off the port, where it is not latched yet (10_state.md R32;
42_packet_framer.md R102: each payload byte is read from the port once). -/
def State.latchPayload (s : State) (b : Byte) : State :=
  match s.lpay[s.idx.toNat]? with
  | some _ => s
  | none => { s with lpay := s.lpay ++ [b], port := s.port.tail }

/-- Emits a checksummed byte and adds it to ACC: the rows TYPE, LENHI, LENLO and PAYLOAD
(42_packet_framer.md R107). -/
def State.emitSummed (s : State) (b : Byte) : State := (s.emit b).addToAcc b

/-- The row PAYLOAD with the byte `b` (42_packet_framer.md R107). -/
def State.payloadRow (s : State) (b : Byte) : State :=
  { (s.latchPayload b).emitSummed b with
    idx := s.idx + 1
    phase := if s.idx + 1 = s.llen then .chk else .payload }

/-- One row of the table of 42_packet_framer.md R107, with the sink accepting. In IDLE, and in PAYLOAD
while no byte is there, nothing happens. -/
def State.transfer (s : State) : State :=
  match s.phase with
  | .idle => s
  | .magic0 => { s.emit Config.magic0 with phase := .magic1 }
  | .magic1 => { s.emit Config.magic1 with phase := .type }
  | .type => { s.emitSummed s.ltype with phase := .lenHi }
  | .lenHi => { s.emitSummed (lenEncode s.llen).1 with phase := .lenLo }
  | .lenLo =>
    { s.emitSummed (lenEncode s.llen).2 with phase := if s.llen = 0 then .chk else .payload }
  | .payload =>
    match s.payloadByte with
    | some b => s.payloadRow b
    | none => s
  | .chk => { s.emit s.acc with phase := .flush }
  | .flush => s.flush.retire

end Sys2Proof.Machine
end

