-- ==== Sys2Proof/Machine/Control.lean ====
section
/-! DEFINITION. What the next step does, decided from the state and its inputs, and its effect
(00_scope.md R10; 60_exceptions.md R153, R156; 70_reset_and_hazards.md R176). -/

namespace Sys2Proof.Machine

/-- Why a step holds (00_scope.md R9, R10). -/
inductive HoldReason where
  /-- No header word is presented: the block is idle (60_exceptions.md R165). -/
  | noCommand
  /-- Data of a command is not presented yet (60_exceptions.md R166 row 5). -/
  | dataPending
  /-- The sink does not accept (42_packet_framer.md R109). -/
  | sinkBusy
  /-- The block is in the fault state (60_exceptions.md R153). -/
  | faulted
  deriving DecidableEq, Repr

/-- What one step does. The outcomes of 00_scope.md R10 stay apart: a next state (`reset`, `execute`,
`startFrame`, `startTlm`, `transfer`), a fault (`takeFault`), a hold; a refusal is `exec`'s. -/
inductive Action where
  | reset
  | hold (why : HoldReason)
  | takeFault (cause : Cause) (hdr : Word) (rest : List Beat)
  /-- Transaction level: the whole command in one step. -/
  | execute (i : Instr) (rest : List Beat)
  /-- Byte-serial level: a FRAME header is taken (42_packet_framer.md R106). -/
  | startFrame (type : Byte) (len : Half) (rest : List Beat)
  /-- Byte-serial level: a TLM header and its operand are taken (42_packet_framer.md R106). -/
  | startTlm (w : Word) (rest : List Beat)
  /-- Byte-serial level: one row of 42_packet_framer.md R107. -/
  | transfer
  deriving DecidableEq, Repr

/-- At the transaction level: a command is taken once it is wholly presented and the sink accepts
(42_packet_framer.md R109; 60_exceptions.md R166 row 5), and holds on the port till then with none of its
effect. A faulting header emits nothing and does not wait for the sink. Log entry 13. -/
def State.transactionAction (s : State) : Action :=
  match fetch s.port with
  | .noHeader => .hold .noCommand
  | .dataPending => .hold .dataPending
  | .faulty k hdr rest => .takeFault k hdr rest
  | .command i rest => if s.pin.sinkReady then .execute i rest else .hold .sinkBusy

/-- At the byte-serial level: a FRAME starts on its header, a TLM on its header and operand
(42_packet_framer.md R106; log entry 7). -/
def State.startAction (s : State) : Action :=
  match s.port with
  | .word hdr :: rest =>
    match decodeHeader hdr with
    | .frame t n => .startFrame t n rest
    | .tlm =>
      match rest with
      | .word w :: rest' => .startTlm w rest'
      | _ => .hold .dataPending
    | .fault k => .takeFault k hdr rest
  | _ => .hold .noCommand

/-- While a frame is in progress: a row fires when the sink accepts and, in PAYLOAD, the byte is there
(42_packet_framer.md R107). -/
def State.transferAction (s : State) : Action :=
  if s.pin.sinkReady then
    if s.phase = .payload ∧ s.payloadByte = none then .hold .dataPending else .transfer
  else .hold .sinkBusy

/-- The next step: reset before everything (60_exceptions.md R156 a); in the fault state a hold (R153),
with a frame in progress too (log entry 9); outside it a frame in progress goes on before the
next command starts (70_reset_and_hazards.md R176). -/
def State.nextAction (s : State) : Action :=
  if s.pin.reset then .reset
  else if s.faulted then .hold .faulted
  else if s.phase = .idle then
    match s.level with
    | .transaction => s.transactionAction
    | .byteSerial => s.startAction
  else s.transferAction

/-- The effect of an action. A hold leaves the state as it is (00_scope.md R9). -/
def perform (a : Action) (s : State) : Host.Outcome State Fault Refusal :=
  match a with
  | .reset => .next s.applyReset
  | .hold _ => .next s
  | .takeFault k hdr rest => .next ((s.consume rest).enterFault k hdr)
  | .execute i rest => exec i (s.consume rest)
  | .startFrame t n rest => .next ((s.consume rest).startFrame t n)
  | .startTlm w rest => .next ((s.consume rest).startTlm w)
  | .transfer => .next s.transfer

end Sys2Proof.Machine
end

