-- ==== Sys2Proof/Machine/Step.lean ====
section
/-! DEFINITION. One step of the block. -/

namespace Sys2Proof.Machine

/-- One step: the action the state and its inputs call for, with this step's input wires past. -/
def step (s : State) : Host.Outcome State Fault Refusal := perform s.nextAction s.tick

/-- `s` with the command whose opcode-table bits are `w` presented on the port, no reset asserted, the
sink accepting, at the transaction level: the controller's act that makes the next step run exactly
that command (10_state.md R29; log entry 10). -/
def State.withFetchWord (s : State) (nbits w : Nat) : State :=
  { s with
    port := tableBeats nbits w
    pins := [{ reset := false, sinkReady := true }]
    level := .transaction }

end Sys2Proof.Machine
end

