-- ==== Sys2Proof/Machine/Instances.lean ====
section
/-! DEFINITION. Several blocks side by side: each has its own state and no step of one touches another's
(10_state.md R34; 60_exceptions.md R163). Which one moves is the caller's choice. -/

namespace Sys2Proof.Machine

/-- One step of block `k` of several (10_state.md R34). Nothing happens where there is no such block, a
DESIGN CHOICE (log entry 22). -/
def stepAt (k : Nat) (blocks : List State) : Host.Outcome (List State) Fault Refusal :=
  match blocks[k]? with
  | none => .next blocks
  | some s =>
    match step s with
    | .next t => .next (blocks.set k t)
    | .fault f => .fault f
    | .refused r => .refused r

end Sys2Proof.Machine
end

