-- ==== Sys2Proof/Machine/Program.lean ====
section
/-! DEFINITION. How a program of command lines runs, at the transaction level (30_encoding.md R71;
95_test_vectors.md Part 3; 00_scope.md R10). -/

namespace Sys2Proof.Machine

/-- The controller presents a line and the block takes one step; a line that is refused gives no next
state (60_exceptions.md R157). -/
def State.runLine (s : State) (l : Line) : Host.Outcome State Fault Refusal :=
  match s.present l with
  | .next s' => step s'
  | .fault f => .fault f
  | .refused r => .refused r

/-- Is this line a command whose step consumed nothing, so that it holds on the port? -/
def lineHolds (l : Line) (before after : State) : Bool :=
  match l with
  | .command _ => before.pos == after.pos
  | .reset => false

/-- The lines of a program in order, with nothing on the port before the first. A command line that holds
stops the program there, unconsumed; a RESET line is applied when reached; a refusal marks the whole run
refused (95_test_vectors.md Part 3; 00_scope.md R10; log entry 16). -/
def runLines : List Line → State → Host.Outcome State Fault Refusal
  | [], s => .next s
  | l :: ls, s =>
    match s.runLine l with
    | .next s' => if lineHolds l s s' then .next s' else runLines ls s'
    | .fault f => .fault f
    | .refused r => .refused r

end Sys2Proof.Machine
end

