-- ==== Sys2Proof/Machine/Receiver.lean ====
section
/-! DEFINITION. The reference receiver: test oracles that state the round-trip properties, not hardware
of the block (42_packet_framer.md R110; 43_telemetry_serializer.md R132). -/

namespace Sys2Proof.Machine

/-- What ParseFrame returns (42_packet_framer.md R110). -/
inductive ParseResult where
  | incomplete
  | badMagic
  | badChecksum
  | ok (type : Byte) (payload rest : List Byte)
  deriving DecidableEq, Repr

/-- `ParseFrame(s)` (42_packet_framer.md R110). -/
def parseFrame (s : List Byte) : ParseResult :=
  match s with
  | m0 :: m1 :: t :: hi :: lo :: body =>
    if s.length < 6 then .incomplete
    else if m0 ≠ 0xAA ∨ m1 ≠ 0x55 then .badMagic
    else
      let n := lenDecode hi lo
      if s.length < n + 6 then .incomplete
      else
        let p := body.take n
        match body.drop n with
        | c :: rest => if xorFold ([t, hi, lo] ++ p) ≠ c then .badChecksum else .ok t p rest
        | [] => .incomplete
  | _ => .incomplete

/-- `ParseTelemetry(q)` for 8 bytes (43_telemetry_serializer.md R132); none for any other length, a DESIGN
CHOICE (log entry 22). -/
def parseTelemetry (q : List Byte) : Option TelemetryRecord :=
  if q.length = 8 then
    some { counter := BitVec.ofNat 32 (leValue (q.take 4))
           weightG := sint32 (BitVec.ofNat 32 (leValue (q.drop 4))) }
  else none

/-- The bytes the sink has been handed, without the flushes (20_memory.md R41). -/
def wireBytes : List Event → List Byte
  | [] => []
  | .byte b :: es => b :: wireBytes es
  | .flush :: es => wireBytes es

/-- The receiver run over a byte stream, at most `fuel` frames; it stops at the first input that is no
good frame (42_packet_framer.md R110; 93_implementation_defined.md item 18). -/
def receive : Nat → List Byte → List (Byte × List Byte)
  | 0, _ => []
  | fuel + 1, s =>
    match parseFrame s with
    | .ok t p rest => (t, p) :: receive fuel rest
    | _ => []

end Sys2Proof.Machine
end

