-- ==== Sys2Proof/Safety.lean ====
section
/-! DEFINITION. What a sound state of the block is, and what a run is expected to put on the wire: the
terms the statements use. -/

namespace Sys2Proof.Machine

/-- The events one executed command appends to OUT: its frame, then one Flush (20_memory.md R48, R52;
42_packet_framer.md R104). -/
def frameEvents (t : Byte) (p : List Byte) : List Event := (buildFrame t p).map Event.byte ++ [.flush]

/-- The events of several frames, in order. -/
def framesEvents (fs : List (Byte × List Byte)) : List Event :=
  fs.flatMap fun f => frameEvents f.1 f.2

/-- OUT is a concatenation of whole frames, each with its Flush (42_packet_framer.md R104). -/
def Framed (out : List Event) : Prop :=
  ∃ fs : List (Byte × List Byte), (∀ f ∈ fs, PayloadFits f.2) ∧ out = framesEvents fs

/-- What STATUS and FAULTHDR may hold: bits 7:4 are 0; FAULT = 0 if and only if CAUSE = 0; CAUSE is 0, 1
or 2; FAULTHDR is 0 while FAULT = 0, and otherwise holds a header that decodes to the fault CAUSE names;
no frame is in progress in the fault state (10_state.md R22, R24, R25, R26; 60_exceptions.md R155). -/
def State.StatusInv (s : State) : Prop :=
  statusReserved s.status = 0 ∧
  (faultBit s.status = 0 ↔ causeField s.status = 0) ∧
  (causeField s.status).toNat ≤ 2 ∧
  (faultBit s.status = 0 → s.faultHdr = 0) ∧
  (∀ k, causeField s.status = causeCode k → decodeHeader s.faultHdr = .fault k) ∧
  (faultBit s.status = 1 → s.phase = .idle)

/-- The bytes of the frame in progress that ACC has taken in so far (41_checksum.md R95). -/
def State.summedSoFar (s : State) : List Byte :=
  match s.phase with
  | .idle | .magic0 | .magic1 | .type => []
  | .lenHi => [s.ltype]
  | .lenLo => [s.ltype, (lenEncode s.llen).1]
  | .payload => checksummed s.ltype s.llen (s.lpay.take s.idx.toNat)
  | .chk | .flush => checksummed s.ltype s.llen s.lpay

/-- The bytes of the frame in progress that the sink has taken so far (42_packet_framer.md R107). -/
def State.sentSoFar (s : State) : List Byte :=
  match s.phase with
  | .idle | .magic0 => []
  | .magic1 => [Config.magic0]
  | .type => [Config.magic0, Config.magic1]
  | .lenHi | .lenLo | .payload | .chk => [Config.magic0, Config.magic1] ++ s.summedSoFar
  | .flush => [Config.magic0, Config.magic1] ++ s.summedSoFar ++ [s.acc]

/-- How IDX, LLEN and LPAY go together while a frame is in progress: either the payload was latched
whole (TLM) or as many bytes as have been sent (FRAME) (10_state.md R32; 42_packet_framer.md R106,
R107). -/
def State.LatchInv (s : State) : Prop :=
  match s.phase with
  | .idle => True
  | .magic0 | .magic1 | .type | .lenHi | .lenLo =>
    s.idx = 0 ∧ (s.lpay = [] ∨ s.lpay.length = s.llen.toNat)
  | .payload =>
    s.idx.toNat < s.llen.toNat ∧ (s.lpay.length = s.idx.toNat ∨ s.lpay.length = s.llen.toNat)
  | .chk | .flush => s.lpay.length = s.llen.toNat

/-- The byte-serial framer is sound: while a frame is in progress ACC is the XOR-fold of the bytes it has
taken in, and the latches agree (41_checksum.md R95; 10_state.md R32). -/
def State.FramerInv (s : State) : Prop :=
  (s.phase ≠ .idle → s.acc = xorFold s.summedSoFar) ∧ s.LatchInv

/-- OUT is whole frames followed by what has been sent of the frame in progress (42_packet_framer.md
R104). -/
def State.WireInv (s : State) : Prop :=
  ∃ sent, Framed sent ∧ s.out = sent ++ s.sentSoFar.map Event.byte

/-- A reset that cuts a frame: the one thing that leaves a truncated frame in OUT
(70_reset_and_hazards.md R172). -/
def State.cutsFrame (s : State) : Prop := s.pin.reset = true ∧ s.phase ≠ .idle

/-- Type and payload of the frame a command emits when CNT is `c` (42_packet_framer.md R101;
43_telemetry_serializer.md R133). -/
def commandFrame (c : Word) : Instr → Byte × List Byte
  | .frame t p => (t, p)
  | .tlm w => (Config.typeTelemetry, serialize { counter := c, weightG := weightOf w })

/-- CNT after a command that finds CNT = `c` (43_telemetry_serializer.md R134). -/
def counterAfter (c : Word) : Instr → Word
  | .frame _ _ => c
  | .tlm _ => c + 1

/-- The frames a sequence of commands puts on the wire, the first finding CNT = `c`
(20_memory.md R49, R50; 43_telemetry_serializer.md R135). -/
def commandFrames (c : Word) : List Instr → List (Byte × List Byte)
  | [] => []
  | i :: is => commandFrame c i :: commandFrames (counterAfter c i) is

/-- Is the command a TLM? -/
def isTlm : Instr → Bool
  | .frame _ _ => false
  | .tlm _ => true

/-- How many of a sequence of commands are TLM commands. -/
def tlmCount (is : List Instr) : Nat := is.countP isTlm

/-- No reset is asserted, now or later (70_reset_and_hazards.md R171). -/
def State.noReset (s : State) : Prop := (∀ p ∈ s.pins, p.reset = false) ∧ s.pinsAfter.reset = false

/-- The fairness assumption of 70_reset_and_hazards.md R178: after the finitely many steps of `pins`,
whatever the sink did in them, it accepts. -/
def State.sinkFair (s : State) : Prop := s.pinsAfter.sinkReady = true

/-- A sink that never accepts, now or later (70_reset_and_hazards.md R178). -/
def State.sinkNeverAccepts (s : State) : Prop :=
  (∀ p ∈ s.pins, p.sinkReady = false) ∧ s.pinsAfter.sinkReady = false

/-- Two states that nothing outside the block can tell apart: all is equal but IDX, ACC, LTYPE, LLEN and
LPAY while PHASE = IDLE, where they are not read (10_state.md R31, R32), and the count of free values
drawn. -/
def State.Agree (s u : State) : Prop :=
  s.cnt = u.cnt ∧ s.status = u.status ∧ s.faultHdr = u.faultHdr ∧ s.out = u.out ∧
  s.phase = u.phase ∧ s.port = u.port ∧ s.pins = u.pins ∧ s.pinsAfter = u.pinsAfter ∧
  s.pos = u.pos ∧ s.level = u.level ∧
  (s.phase ≠ .idle →
    s.idx = u.idx ∧ s.acc = u.acc ∧ s.ltype = u.ltype ∧ s.llen = u.llen ∧ s.lpay = u.lpay)

/-- A finished run: no frame is in progress and the controller has stopped issuing commands
(60_exceptions.md R166 row 9). That a command held on the port still counts as issued, so that the port
must be empty, is a DESIGN CHOICE (log entry 19). -/
def State.finished (s : State) : Prop := s.port = [] ∧ s.phase = .idle

end Sys2Proof.Machine
end

