-- ==== Sys2Proof/Certificates/Slice0/Obligations.lean ====
section
/-! DEFINITION. The statements for the provers. -/

open Sys2Proof Sys2Proof.Machine

/-! Encoding -/

/-- Header words of 95_test_vectors.md 2.3 and whole commands of its programs P1 and P2, written out
from 30_encoding.md R61. -/
def Obligations.HeaderWordsOfTheSpecDecode : Prop :=
  decodeHeader 0x01000000 = .frame 0x00 0 ∧
  decodeHeader 0x01FFFFFF = .frame 0xFF 65535 ∧
  decodeHeader 0x0107000A = .frame 0x07 10 ∧
  decodeHeader 0x02000000 = .tlm ∧
  decodeHeader 0x02000001 = .fault .reservedNonzero ∧
  decodeHeader 0x02800000 = .fault .reservedNonzero ∧
  decodeHeader 0x00000000 = .fault .illegalOp ∧
  decodeHeader 0x81000000 = .fault .illegalOp ∧
  fetch [.word 0x017E0003, .byte 0x00, .byte 0x01, .byte 0x02] =
    .command (.frame 0x7E [0x00, 0x01, 0x02]) [] ∧
  fetch [.word 0x02000000, .word 0xFFFFFFF4] = .command (.tlm 0xFFFFFFF4) []

/-- 30_encoding.md R63 and R70, on the number the header is: `op` decides first, the reserved bits only
for op 0x02, and every other op is illegal; with the two cause codes R63 writes. -/
def Obligations.EveryHeaderDecodesByOpThenReservedBits : Prop :=
  causeCode .illegalOp = 1 ∧ causeCode .reservedNonzero = 2 ∧
  ∀ hdr : Word,
    (hdr.toNat / 2 ^ 24 = 1 →
      decodeHeader hdr =
        .frame (BitVec.ofNat 8 (hdr.toNat / 2 ^ 16 % 2 ^ 8)) (BitVec.ofNat 16 (hdr.toNat % 2 ^ 16))) ∧
    (hdr.toNat / 2 ^ 24 = 2 → hdr.toNat % 2 ^ 24 = 0 → decodeHeader hdr = .tlm) ∧
    (hdr.toNat / 2 ^ 24 = 2 → hdr.toNat % 2 ^ 24 ≠ 0 → decodeHeader hdr = .fault .reservedNonzero) ∧
    (hdr.toNat / 2 ^ 24 ≠ 1 → hdr.toNat / 2 ^ 24 ≠ 2 → decodeHeader hdr = .fault .illegalOp)

/-- Encoding a well-formed command and decoding the port gives the command back, whatever follows it
(30_encoding.md R60, R64, R65, R72). -/
def Obligations.DecodeOfEncodeIsTheCommand : Prop :=
  ∀ (i : Instr) (rest : List Beat), i.WellFormed → fetch (encode i ++ rest) = .command i rest

/-- What the decoder reads as a command is the encoded form of that command, and the command is
well-formed: no port presents an over-long FRAME (30_encoding.md R60, R62; 60_exceptions.md R157). -/
def Obligations.DecodedCommandsAreWellFormedEncodings : Prop :=
  ∀ (bs : List Beat) (i : Instr) (rest : List Beat),
    fetch bs = .command i rest → i.WellFormed ∧ bs = encode i ++ rest

/-- 30_encoding.md R62: the header alone tells a command's length. -/
def Obligations.HeaderAloneTellsCommandLength : Prop :=
  ∀ (hdr : Word) (tail rest : List Beat),
    (∀ t p, fetch (.word hdr :: tail) = .command (.frame t p) rest →
      p.length = hdr.toNat % 2 ^ 16 ∧ tail = p.map .byte ++ rest) ∧
    (∀ w, fetch (.word hdr :: tail) = .command (.tlm w) rest → tail = .word w :: rest) ∧
    (∀ k, decodeHeader hdr = .fault k → fetch (.word hdr :: tail) = .faulty k hdr tail)

/-- 30_encoding.md R72: the encoded forms, which terms are well-formed, and the refusal of a longer
payload (60_exceptions.md R157). That the refusal also comes in the fault state, where 60_exceptions.md
R153 has every command hold, is the model's choice (log entry 8). -/
def Obligations.AbstractFormEncodesOrIsRefused : Prop :=
  (∀ t p, (Instr.frame t p).WellFormed ↔ p.length ≤ 65535) ∧
  (∀ w, (Instr.tlm w).WellFormed) ∧
  (∀ t (p : List Byte), p.length ≤ 65535 →
    encode (.frame t p) =
      .word (BitVec.ofNat 32 (0x01 * 2 ^ 24 + t.toNat * 2 ^ 16 + p.length)) :: p.map .byte) ∧
  (∀ w, encode (.tlm w) = [.word 0x02000000, .word w]) ∧
  (∀ hdr, (Command.raw hdr).WellFormed ↔ ∃ k, decodeHeader hdr = .fault k) ∧
  (∀ t p s, ¬ p.length ≤ 65535 → exec (.frame t p) s = .refused .payloadTooLong)

/-! Length encoder and checksum -/

/-- 40_length_encoder.md R83: the receiver's formula gives `n` back, so the encoder is injective. -/
def Obligations.LengthEncoderIsInvertible : Prop :=
  (∀ n : Half, (lenEncode n).1.toNat * 256 + (lenEncode n).2.toNat = n.toNat) ∧
  (∀ m n : Half, lenEncode m = lenEncode n → m = n)

/-- 41_checksum.md R93: (a) order does not matter; (b) the empty payload; (c) the receiver's fold is 0
exactly when the checksum byte matches; (d) every single-byte change is seen, and a change of the same
bits in two bytes is not. -/
def Obligations.ChecksumLaws : Prop :=
  (∀ s u : List Byte, s.Perm u → xorFold s = xorFold u) ∧
  (∀ t : Byte, xorFold (checksummed t 0 []) = t) ∧
  (∀ (t : Byte) (n : Half) (p : List Byte) (c : Byte),
    xorFold (checksummed t n p ++ [c]) = 0 ↔ c = xorFold (checksummed t n p)) ∧
  (∀ (s : List Byte) (i : Nat) (b : Byte), i < s.length → s[i]? ≠ some b →
    xorFold (s.set i b) ≠ xorFold s) ∧
  (∀ (s : List Byte) (i j : Nat) (m : Byte), i < s.length → j < s.length → i ≠ j →
    xorFold ((s.modify i (· ^^^ m)).modify j (· ^^^ m)) = xorFold s)

/-! The frame -/

/-- 30_encoding.md R66 and R67, 41_checksum.md R92: every byte of a frame by its offset, its length, and
what its checksum covers. -/
def Obligations.FrameLayout : Prop :=
  (∀ (t : Byte) (p : List Byte), p.length ≤ 65535 →
    (buildFrame t p).length = p.length + 6 ∧
    (buildFrame t p).take 3 = [0xAA, 0x55, t] ∧
    (∃ hi lo, (buildFrame t p)[3]? = some hi ∧ (buildFrame t p)[4]? = some lo ∧
      hi.toNat * 256 + lo.toNat = p.length) ∧
    ((buildFrame t p).drop 5).take p.length = p ∧
    (buildFrame t p)[5 + p.length]? =
      some (xorFold (((buildFrame t p).drop 2).take (3 + p.length)))) ∧
  (∀ r : TelemetryRecord, (buildFrame 0x01 (serialize r)).length = 14)

/-- 42_packet_framer.md R111: the round trip. -/
def Obligations.ParseFrameRecoversTheFrame : Prop :=
  ∀ (t : Byte) (p r : List Byte), p.length ≤ 65535 → parseFrame (buildFrame t p ++ r) = .ok t p r

/-- A receiver that starts at a frame boundary recovers every frame of a sequence, in order, whatever
follows them (42_packet_framer.md R104, R111). -/
def Obligations.ReceiverRecoversEveryFrame : Prop :=
  ∀ (fs : List (Byte × List Byte)) (r : List Byte), (∀ f ∈ fs, f.2.length ≤ 65535) →
    receive fs.length (wireBytes (framesEvents fs) ++ r) = fs

/-! Telemetry -/

/-- 20_memory.md R45: the views of a telemetry frame; bytes 5..8 and 9..12 read little-endian give the
counter and the weight's pattern, bytes 3..4 read little-endian give the length with its bytes swapped. -/
def Obligations.TelemetryFrameViews : Prop :=
  ∀ (c : Word) (w : Int), IsS32 w →
    let f := buildFrame 0x01 (serialize { counter := c, weightG := w })
    leValue ((f.drop 5).take 4) = c.toNat ∧
    (leValue ((f.drop 9).take 4) : Int) = w % 2 ^ 32 ∧
    leValue ((f.drop 3).take 2) = 8 * 256

/-- 43_telemetry_serializer.md R132: ParseTelemetry's two sums, and the round trip. -/
def Obligations.ParseTelemetryRecoversTheRecord : Prop :=
  (∀ q0 q1 q2 q3 q4 q5 q6 q7 : Byte, ∃ r,
    parseTelemetry [q0, q1, q2, q3, q4, q5, q6, q7] = some r ∧
    r.counter.toNat =
      q0.toNat + q1.toNat * 2 ^ 8 + q2.toNat * 2 ^ 16 + q3.toNat * 2 ^ 24 ∧
    IsS32 r.weightG ∧
    (bits32 r.weightG).toNat =
      q4.toNat + q5.toNat * 2 ^ 8 + q6.toNat * 2 ^ 16 + q7.toNat * 2 ^ 24) ∧
  (∀ (c : Word) (w : Int), IsS32 w →
    parseTelemetry (serialize { counter := c, weightG := w }) =
      some { counter := c, weightG := w })

/-- 43_telemetry_serializer.md R136: the checksum byte of a telemetry frame. For a weight outside the s32
range, of which the rule says nothing, it is the model's choice of `bits32` there (log entry 18). -/
def Obligations.TelemetryChecksum : Prop :=
  (∀ (c : Word) (w : Int),
    (buildFrame 0x01 (serialize { counter := c, weightG := w }))[13]? =
      some ((0x09 ^^^ xorFold (le32 c)) ^^^ xorFold (le32 (bits32 w)))) ∧
  (buildFrame 0x01 (serialize { counter := 0, weightG := 3500 }))[13]? = some 0xA8

/-! The two commands -/

/-- 42_packet_framer.md R101: FRAME completes; it appends its frame and one Flush and changes no
register, and leaves the inputs, the position and IDLE as they are. -/
def Obligations.FrameAppendsItsFrameAndFlush : Prop :=
  ∀ (s : State) (t : Byte) (p : List Byte),
    s.faulted = false → s.phase = .idle → p.length ≤ 65535 →
    ∃ u, exec (.frame t p) s = .next u ∧
      u.out = s.out ++ (buildFrame t p).map Event.byte ++ [.flush] ∧
      u.cnt = s.cnt ∧ u.status = s.status ∧ u.faultHdr = s.faultHdr ∧ u.phase = .idle ∧
      u.port = s.port ∧ u.pins = s.pins ∧ u.pos = s.pos ∧ u.level = s.level

/-- 43_telemetry_serializer.md R133: TLM completes; it frames the record of the old CNT and the weight,
appends one Flush, adds 1 to CNT modulo 2^32 and changes no other register. -/
def Obligations.TlmFramesTheRecordAndAdvancesCnt : Prop :=
  ∀ (s : State) (w : Word), s.faulted = false → s.phase = .idle →
    ∃ u, exec (.tlm w) s = .next u ∧
      u.out = s.out ++
        (buildFrame 0x01 (serialize { counter := s.cnt, weightG := w.toInt })).map Event.byte ++
          [.flush] ∧
      u.cnt.toNat = (s.cnt.toNat + 1) % 2 ^ 32 ∧
      u.status = s.status ∧ u.faultHdr = s.faultHdr ∧ u.phase = .idle ∧
      u.port = s.port ∧ u.pins = s.pins ∧ u.pos = s.pos ∧ u.level = s.level

/-- The bytes a command appends depend on its operands, and for TLM on CNT, alone: two enabled states
that differ in everything else get the same events (42_packet_framer.md R103). -/
def Obligations.AppendedEventsDependOnOperandsAlone : Prop :=
  (∀ (s u s' u' : State) (t : Byte) (p : List Byte), s.enabled = true → u.enabled = true →
    exec (.frame t p) s = .next s' → exec (.frame t p) u = .next u' →
    ∃ e, s'.out = s.out ++ e ∧ u'.out = u.out ++ e) ∧
  (∀ (s u s' u' : State) (w : Word), s.enabled = true → u.enabled = true → s.cnt = u.cnt →
    exec (.tlm w) s = .next s' → exec (.tlm w) u = .next u' →
    ∃ e, s'.out = s.out ++ e ∧ u'.out = u.out ++ e)

/-- In the fault state a well-formed command holds: `exec` leaves the state as it is (60_exceptions.md
R153; 00_scope.md R9). -/
def Obligations.CommandsHoldInTheFaultState : Prop :=
  ∀ (i : Instr) (s : State), s.faulted = true → i.WellFormed → exec i s = .next s

/-- 60_exceptions.md R157: an over-long Frame term is refused in every state, and the encoded port
cannot present one. That it is refused in the fault state too, where R153 has every command hold, is the
model's choice (log entry 8). -/
def Obligations.OverLongFrameIsRefusedAndUnencodable : Prop :=
  (∀ (s : State) (t : Byte) (p : List Byte), 65535 < p.length →
    exec (.frame t p) s = .refused .payloadTooLong) ∧
  (∀ (bs rest : List Beat) (t : Byte) (p : List Byte),
    fetch bs = .command (.frame t p) rest → p.length ≤ 65535)

/-- 60_exceptions.md R157 at a program's lines (30_encoding.md R71, R72): presenting an over-long Frame
term is refused in every state and marks the run of the program refused (00_scope.md R10); every other
command line is presented, its encoded form next on the port, and the port keeps what it had. That the
refusal comes before the fault state is looked at is the model's choice (log entry 8), and so is that a
`Raw` header which does not fault is presented like one that does (log entry 20). -/
def Obligations.PresentingAnOverLongFrameRefusesTheRun : Prop :=
  (∀ (s : State) (t : Byte) (p : List Byte), 65535 < p.length →
    s.present (.command (.instr (.frame t p))) = .refused .payloadTooLong ∧
    s.runLine (.command (.instr (.frame t p))) = .refused .payloadTooLong ∧
    ∀ rest, runLines (.command (.instr (.frame t p)) :: rest) s = .refused .payloadTooLong) ∧
  (∀ (s : State) (i : Instr), i.WellFormed →
    s.present (.command (.instr i)) = .next { s with port := s.port ++ encode i }) ∧
  (∀ (s : State) (hdr : Word),
    s.present (.command (.raw hdr)) = .next { s with port := s.port ++ [.word hdr] })

/-! The step -/

/-- A step at the transaction level runs the command the port presents: `exec` of it, on the state with
the command consumed and this step's input wires past (10_state.md R29, R30; 42_packet_framer.md R109).
That it is taken in a step in which the sink accepts is the model's reading (log entry 13). -/
def Obligations.StepRunsThePresentedCommand : Prop :=
  ∀ (s : State) (i : Instr) (rest : List Beat),
    s.pin.reset = false → s.pin.sinkReady = true → s.faulted = false → s.phase = .idle →
    s.level = .transaction → fetch s.port = .command i rest →
    step s = exec i { s with port := rest, pos := s.pos + 1, pins := s.pins.tail }

/-- 60_exceptions.md R151, with what R152 says is consumed and the position of 10_state.md R30: a
faulting header is taken in one step, at either level. That it does not wait for the sink (no premise on
`sinkReady`) is the model's reading (log entry 13). -/
def Obligations.FaultingHeaderEntersTheFaultState : Prop :=
  ∀ (s : State) (k : Cause) (hdr : Word) (rest : List Beat),
    s.pin.reset = false → s.faulted = false → s.phase = .idle →
    s.port = .word hdr :: rest → decodeHeader hdr = .fault k →
    ∃ u, step s = .next u ∧
      faultBit u.status = 1 ∧ causeField u.status = causeCode k ∧ statusReserved u.status = 0 ∧
      u.faultHdr = hdr ∧ u.out = s.out ∧ u.cnt = s.cnt ∧
      u.port = rest ∧ u.pos = s.pos + 1 ∧ u.faulted = true

/-- 60_exceptions.md R153: in the fault state every step without reset holds; nothing but the input
wires moves on. R153 speaks of command steps; that a frame in progress holds too, in a fault state no run
reaches, is the model's choice (log entry 9). -/
def Obligations.FaultStateHoldsUntilReset : Prop :=
  ∀ s : State, s.faulted = true → s.pin.reset = false →
    step s = .next { s with pins := s.pins.tail }

/-- 70_reset_and_hazards.md R170 and R173, from every state, a frame in progress or not. A header on the
port stays there (60_exceptions.md R156 a). That the position of 10_state.md R29 is kept across a reset
is the model's reading (log entry 11). -/
def Obligations.ResetSetsTheResetValuesAndKeepsOut : Prop :=
  ∀ s : State, s.pin.reset = true →
    ∃ u, step s = .next u ∧
      u.cnt = 0 ∧ u.status = 0 ∧ u.faultHdr = 0 ∧ u.phase = .idle ∧ u.out = s.out ∧
      u.pos = s.pos ∧ (∀ hdr rest, s.port = .word hdr :: rest → u.port = s.port)

/-- 70_reset_and_hazards.md R174: the commands presented with a reset run from the reset state, one a
step, and the first TLM carries counter 0, whatever state came before and however many FRAMEs (`fs`, by
type and payload) come before it. The sink accepts in the steps after the reset (log entry 3). -/
def Obligations.FirstTlmAfterResetCarriesZero : Prop :=
  ∀ (s : State) (fs : List (Byte × List Byte)) (w : Word) (rest : List Beat) (ready : Bool),
    s.pins = [{ reset := true, sinkReady := ready }] →
    s.pinsAfter = { reset := false, sinkReady := true } → s.level = .transaction →
    (∀ f ∈ fs, f.2.length ≤ 65535) →
    s.port = fs.flatMap (fun f => encode (.frame f.1 f.2)) ++ encode (.tlm w) ++ rest →
    ∃ u, core.run (fs.length + 2) s = .next u ∧
      u.out = s.out ++ framesEvents fs ++
        frameEvents 0x01 (serialize { counter := 0, weightG := w.toInt }) ∧
      u.cnt = 1 ∧ u.status = 0 ∧ u.faultHdr = 0 ∧ u.port = rest

/-- 60_exceptions.md R154: a step that leaves the fault state is a reset, and it clears STATUS and
FAULTHDR and sets CNT to 0. -/
def Obligations.OnlyResetLeavesTheFaultState : Prop :=
  ∀ s u : State, s.faulted = true → step s = .next u → u.faulted = false →
    s.pin.reset = true ∧ u.status = 0 ∧ u.faultHdr = 0 ∧ u.cnt = 0

/-- 60_exceptions.md R150: a step that enters the fault state took a header of one of its two kinds, with
that kind's code, and recorded it. -/
def Obligations.OnlyTheTwoHeaderKindsFault : Prop :=
  ∀ s u : State, s.faulted = false → step s = .next u → u.faulted = true →
    ∃ hdr rest, s.port = .word hdr :: rest ∧ u.faultHdr = hdr ∧
      ((hdr.toNat / 2 ^ 24 ≠ 1 ∧ hdr.toNat / 2 ^ 24 ≠ 2 ∧ causeField u.status = 1) ∨
        (hdr.toNat / 2 ^ 24 = 2 ∧ hdr.toNat % 2 ^ 24 ≠ 0 ∧ causeField u.status = 2))

/-- 10_state.md R28: no step removes or rewrites an event, a reset included. -/
def Obligations.OutOnlyGrows : Prop :=
  ∀ s u : State, step s = .next u → s.out <+: u.out

/-- The two things that write CNT: reset, which sets it to 0, and a TLM on the port, which adds 1
(10_state.md R21; 43_telemetry_serializer.md R134). That at the byte-serial level the port presented the
TLM's header and operand together and both are gone (30_encoding.md R60; 42_packet_framer.md R106) is the
model's reading (log entry 7). -/
def Obligations.OnlyTlmAndResetWriteCnt : Prop :=
  ∀ s u : State, step s = .next u → u.cnt ≠ s.cnt →
    (s.pin.reset = true ∧ u.cnt = 0) ∨
    (s.pin.reset = false ∧ u.cnt = s.cnt + 1 ∧
      ∃ w rest, s.port = .word 0x02000000 :: .word w :: rest ∧ u.port = rest)

/-- The block never stops: from every state a step answers a next state, never a fault of the model and
never a refusal (30_encoding.md R63; 60_exceptions.md R157). It holds because a hold, which 00_scope.md
R10 lists apart from a next state, is answered as a next state: that is the model's choice (log
entry 12). -/
def Obligations.EveryStepAnswersANextState : Prop :=
  ∀ s : State, ∃ u, step s = .next u

/-! Invariants -/

/-- Every step keeps STATUS and FAULTHDR sound (10_state.md R25; 60_exceptions.md R155). -/
def Obligations.EveryStepKeepsStatusSound : Prop :=
  ∀ s u : State, s.StatusInv → step s = .next u → u.StatusInv

/-- Every step keeps ACC the fold of the bytes it took in, and the latches of a frame in progress in
agreement: the running form of 41_checksum.md R95, a reset in mid-frame included. -/
def Obligations.EveryStepKeepsTheFramerSound : Prop :=
  ∀ s u : State, s.FramerInv → step s = .next u → u.FramerInv

/-- Every step but one that cuts a frame keeps OUT whole frames followed by what has been sent of the
frame in progress (42_packet_framer.md R104; 20_memory.md R48). -/
def Obligations.EveryStepKeepsOutFramed : Prop :=
  ∀ s u : State, s.FramerInv → s.WireInv → ¬ s.cutsFrame → step s = .next u → u.WireInv

/-- The three invariants hold after reset (10_state.md R31). -/
def Obligations.InvariantsHoldAtReset : Prop :=
  State.reset.StatusInv ∧ State.reset.FramerInv ∧ State.reset.WireInv

/-- 70_reset_and_hazards.md R171: at the transaction level no frame is ever in progress between steps, a
reset never cuts one, and OUT keeps the shape of 42_packet_framer.md R104. -/
def Obligations.TransactionStepsNeverCutAFrame : Prop :=
  ∀ s u : State, s.level = .transaction → s.phase = .idle → Framed s.out → step s = .next u →
    u.level = .transaction ∧ u.phase = .idle ∧ Framed u.out

/-- What IDX, ACC, LTYPE, LLEN and LPAY hold in IDLE is never read: two states that agree on the rest
take steps to states that agree (10_state.md R31, R32, R33). -/
def Obligations.IdleFramerRegistersAreNeverRead : Prop :=
  ∀ s u s' : State, s.Agree u → step s = .next s' → ∃ u', step u = .next u' ∧ s'.Agree u'

/-! The byte-serial level -/

/-- 42_packet_framer.md R106: what a command latches when it starts. Which beats have left the port then
(the header of a FRAME, the header and the operand of a TLM; 20_memory.md R47) and that a start does not
wait for the sink are the model's reading (log entry 7). -/
def Obligations.StartingACommandLatches : Prop :=
  ∀ s : State, s.pin.reset = false → s.faulted = false → s.phase = .idle → s.level = .byteSerial →
    (∀ hdr rest t n, s.port = .word hdr :: rest → decodeHeader hdr = .frame t n →
      ∃ u, step s = .next u ∧ u.ltype = t ∧ u.llen = n ∧ u.acc = 0 ∧ u.idx = 0 ∧
        u.phase = .magic0 ∧ u.port = rest ∧ u.cnt = s.cnt ∧ u.out = s.out) ∧
    (∀ w rest, s.port = .word 0x02000000 :: .word w :: rest →
      ∃ u, step s = .next u ∧ u.ltype = 0x01 ∧ u.llen = 8 ∧ u.acc = 0 ∧ u.idx = 0 ∧
        u.lpay = serialize { counter := s.cnt, weightG := w.toInt } ∧
        u.phase = .magic0 ∧ u.port = rest ∧ u.cnt = s.cnt + 1 ∧ u.out = s.out)

/-- 42_packet_framer.md R107: the table of transitions, row by row, and the hold. In PAYLOAD a FRAME
takes the byte from the port, and waits while it is not there. Three things are the model's, not the
rule's: that a word at the front of the port counts as no byte there, so that PAYLOAD waits, is its choice
(log entry 2); that LPAY grows by the byte taken is its reading of 42_packet_framer.md R106 (log entry 7);
and the row FLUSH says nothing of ACC, where the table has no update, by its choice (log entry 5). -/
def Obligations.TransitionTable : Prop :=
  ∀ s : State, s.pin.reset = false → s.faulted = false →
    (s.phase ≠ .idle → s.pin.sinkReady = false → step s = .next { s with pins := s.pins.tail }) ∧
    (s.pin.sinkReady = true →
      (s.phase = .magic0 → ∃ u, step s = .next u ∧ u.out = s.out ++ [.byte 0xAA] ∧ u.acc = s.acc ∧
        u.phase = .magic1) ∧
      (s.phase = .magic1 → ∃ u, step s = .next u ∧ u.out = s.out ++ [.byte 0x55] ∧ u.acc = s.acc ∧
        u.phase = .type) ∧
      (s.phase = .type → ∃ u, step s = .next u ∧ u.out = s.out ++ [.byte s.ltype] ∧
        u.acc = s.acc ^^^ s.ltype ∧ u.phase = .lenHi) ∧
      (s.phase = .lenHi → ∃ u, step s = .next u ∧
        u.out = s.out ++ [.byte (s.llen.extractLsb' 8 8)] ∧
        u.acc = s.acc ^^^ s.llen.extractLsb' 8 8 ∧ u.phase = .lenLo) ∧
      (s.phase = .lenLo → ∃ u, step s = .next u ∧
        u.out = s.out ++ [.byte (s.llen.extractLsb' 0 8)] ∧
        u.acc = s.acc ^^^ s.llen.extractLsb' 0 8 ∧
        u.phase = if 0 < s.llen.toNat then .payload else .chk) ∧
      (s.phase = .payload → ∀ b, s.lpay[s.idx.toNat]? = some b →
        ∃ u, step s = .next u ∧ u.out = s.out ++ [.byte b] ∧ u.acc = s.acc ^^^ b ∧
          u.idx = s.idx + 1 ∧ u.lpay = s.lpay ∧ u.port = s.port ∧
          u.phase = if s.idx + 1 = s.llen then .chk else .payload) ∧
      (s.phase = .payload → s.lpay[s.idx.toNat]? = none → ∀ b rest, s.port = .byte b :: rest →
        ∃ u, step s = .next u ∧ u.out = s.out ++ [.byte b] ∧ u.acc = s.acc ^^^ b ∧
          u.idx = s.idx + 1 ∧ u.lpay = s.lpay ++ [b] ∧ u.port = rest ∧
          u.phase = if s.idx + 1 = s.llen then .chk else .payload) ∧
      (s.phase = .payload → s.lpay[s.idx.toNat]? = none → (∀ b rest, s.port ≠ .byte b :: rest) →
        step s = .next { s with pins := s.pins.tail }) ∧
      (s.phase = .chk → ∃ u, step s = .next u ∧ u.out = s.out ++ [.byte s.acc] ∧ u.acc = s.acc ∧
        u.phase = .flush) ∧
      (s.phase = .flush → ∃ u, step s = .next u ∧ u.out = s.out ++ [.flush] ∧ u.phase = .idle))

/-- 42_packet_framer.md R108 for FRAME: from IDLE, with the whole command presented, the byte-serial
framer reaches a state that agrees with what FRAME's one transaction step gives: the same OUT, CNT,
STATUS, FAULTHDR, PHASE, port and position; of IDX, ACC, LTYPE, LLEN and LPAY nothing is said
(93_implementation_defined.md item 14; log entry 5). The sink may stall in any of the steps of `pins`;
that it accepts after them (`sinkFair`) is the fairness assumption of 70_reset_and_hazards.md R178 (log
entry 3). Then no more than one step to start and one for each byte and the Flush are needed. -/
def Obligations.ByteSerialFrameAgreesWithTheTransaction : Prop :=
  ∀ (s : State) (t : Byte) (p : List Byte),
    s.level = .byteSerial → s.faulted = false → s.phase = .idle → s.noReset → s.sinkFair →
    p.length ≤ 65535 → s.port = encode (.frame t p) →
    ∃ u v, core.run (s.pins.length + p.length + 8) s = .next u ∧
      exec (.frame t p) { s with port := [], pos := s.pos + 1, pins := [] } = .next v ∧ u.Agree v

/-- 42_packet_framer.md R108 for TLM, with the same fairness assumption (log entry 3), and nothing said
of IDX, ACC, LTYPE, LLEN and LPAY (log entry 5). -/
def Obligations.ByteSerialTlmAgreesWithTheTransaction : Prop :=
  ∀ (s : State) (w : Word),
    s.level = .byteSerial → s.faulted = false → s.phase = .idle → s.noReset → s.sinkFair →
    s.port = encode (.tlm w) →
    ∃ u v, core.run (s.pins.length + 16) s = .next u ∧
      exec (.tlm w) { s with port := [], pos := s.pos + 1, pins := [] } = .next v ∧ u.Agree v

/-- 42_packet_framer.md R109: while the sink does not accept, a frame in progress, and at the transaction
level a whole command on the port, holds with no state change. The second alternative, the command left
on the port with none of its effect, is the model's reading (log entry 13). -/
def Obligations.SinkHoldChangesNothing : Prop :=
  ∀ s : State, s.pin.reset = false → s.pin.sinkReady = false → s.faulted = false →
    (s.phase ≠ .idle ∨
      (s.phase = .idle ∧ s.level = .transaction ∧ ∃ i rest, fetch s.port = .command i rest)) →
    step s = .next { s with pins := s.pins.tail }

/-- 70_reset_and_hazards.md R178: with a sink that never accepts and no reset, a frame in progress, and at
the transaction level a whole command on the port, hold for ever: after any number of steps nothing has
changed but that the input wires of those steps are past. For the alternative at the transaction level,
that the command stays on the port and a TLM has not advanced CNT is the model's reading (log entry 13). -/
def Obligations.SinkThatNeverAcceptsHoldsForEver : Prop :=
  ∀ s : State, s.noReset → s.sinkNeverAccepts → s.faulted = false →
    (s.phase ≠ .idle ∨
      (s.phase = .idle ∧ s.level = .transaction ∧ ∃ i rest, fetch s.port = .command i rest)) →
    ∀ n, core.run n s = .next { s with pins := s.pins.drop n }

/-- With no header presented the block is idle, and with a command's data not yet presented it waits; in
both it keeps its state (60_exceptions.md R165, R166 row 5; 30_encoding.md R60). That a TLM header without
its operand is not taken at the byte-serial level is the model's reading (log entry 7), and that a beat of
the wrong kind counts as not presented, in all three clauses, is the model's choice (log entry 2). -/
def Obligations.MissingInputHolds : Prop :=
  ∀ s : State, s.pin.reset = false → s.phase = .idle →
    ((fetch s.port = .noHeader → step s = .next { s with pins := s.pins.tail }) ∧
      (s.level = .transaction → fetch s.port = .dataPending →
        step s = .next { s with pins := s.pins.tail }) ∧
      (s.level = .byteSerial → ∀ rest, s.port = .word 0x02000000 :: rest →
        (∀ w r, rest ≠ .word w :: r) → step s = .next { s with pins := s.pins.tail }))

/-- 70_reset_and_hazards.md R176: while a frame is in progress no header is taken, and the framer is back
in IDLE only by appending its Flush. That the position of 10_state.md R30 stays, its command counted when
it started (42_packet_framer.md R106), is the model's reading (log entry 11). -/
def Obligations.NoCommandStartsDuringAFrame : Prop :=
  ∀ s u : State, s.pin.reset = false → s.phase ≠ .idle → step s = .next u →
    u.pos = s.pos ∧ u.cnt = s.cnt ∧ (u.port = s.port ∨ ∃ b, s.port = .byte b :: u.port) ∧
    (u.phase = .idle → s.phase = .flush ∧ u.out = s.out ++ [.flush])

/-- 70_reset_and_hazards.md R172: a reset in mid-frame leaves the bytes already sent in OUT, sends no more
of that frame and no Flush; the next TLM makes a whole frame with counter 0. That the rest of the
interrupted FRAME's data (`left`) is off the port after the reset is the model's reading (log entry 6);
the sink accepts in the steps after the reset (log entry 3). -/
def Obligations.MidFrameResetTruncatesAndStartsAgain : Prop :=
  ∀ (s : State) (left : List Byte) (w : Word) (ready : Bool),
    s.level = .byteSerial → s.phase ≠ .idle → s.pins = [{ reset := true, sinkReady := ready }] →
    s.pinsAfter = { reset := false, sinkReady := true } →
    s.port = left.map Beat.byte ++ encode (.tlm w) →
    (∃ u, step s = .next u ∧ u.out = s.out ∧ u.phase = .idle ∧ u.cnt = 0 ∧
      u.port = encode (.tlm w)) ∧
    (∃ u, core.run 17 s = .next u ∧
      u.out = s.out ++ frameEvents 0x01 (serialize { counter := 0, weightG := w.toInt }) ∧
      u.cnt = 1 ∧ u.phase = .idle ∧ u.port = [])

/-! Sequences of commands -/

/-- Commands run one at a time in port order: after `is.length` steps OUT has their frames in their
order, CNT has advanced once for each TLM, and everything presented was consumed (20_memory.md R48, R49,
R51; 43_telemetry_serializer.md R134). The sink accepts in these steps (log entry 3). -/
def Obligations.CommandsRunInPortOrder : Prop :=
  ∀ (is : List Instr) (s : State) (rest : List Beat),
    (∀ i ∈ is, i.WellFormed) → s.level = .transaction → s.faulted = false → s.phase = .idle →
    s.pins = [] → s.pinsAfter = { reset := false, sinkReady := true } →
    s.port = is.flatMap encode ++ rest →
    ∃ u, core.run is.length s = .next u ∧
      u.out = s.out ++ framesEvents (commandFrames s.cnt is) ∧
      u.cnt = s.cnt + BitVec.ofNat 32 (tlmCount is) ∧ u.pos = s.pos + is.length ∧ u.port = rest ∧
      u.status = s.status ∧ u.faultHdr = s.faultHdr

/-- The counter on the wire, over the run of a sequence of commands (43_telemetry_serializer.md R135;
20_memory.md R50): the run appends one frame for each command, in order; the frame of a TLM carries its
weight and CNT as the run found it plus the number of TLMs before it, modulo 2^32; the frame of a FRAME is
its type and payload, and a FRAME consumes no counter value. The sink accepts in these steps (log
entry 3). -/
def Obligations.TelemetryFramesCarryConsecutiveCounters : Prop :=
  ∀ (is : List Instr) (s : State) (rest : List Beat),
    (∀ i ∈ is, i.WellFormed) → s.level = .transaction → s.faulted = false → s.phase = .idle →
    s.pins = [] → s.pinsAfter = { reset := false, sinkReady := true } →
    s.port = is.flatMap encode ++ rest →
    ∃ u fs, core.run is.length s = .next u ∧ u.out = s.out ++ framesEvents fs ∧
      fs.length = is.length ∧
      (∀ (i : Nat) (w : Word), is[i]? = some (.tlm w) →
        ∃ q, fs[i]? = some (0x01, q) ∧
          ∃ r, parseTelemetry q = some r ∧ r.weightG = w.toInt ∧
            r.counter.toNat = (s.cnt.toNat + tlmCount (is.take i)) % 2 ^ 32) ∧
      (∀ (i : Nat) (t : Byte) (p : List Byte), is[i]? = some (.frame t p) → fs[i]? = some (t, p))

/-! Registers on the status output, reset values, several blocks -/

/-- STATUS on the status output: bit 0 is FAULT, bits 3:1 are CAUSE and bits 7:4 read 0, whatever the
state (10_state.md R22; 20_memory.md R51 e). -/
def Obligations.StatusOutputReadsFaultAndCause : Prop :=
  ∀ s : State,
    s.statusOutput.1.toNat = (faultBit s.status).toNat + 2 * (causeField s.status).toNat ∧
    s.statusOutput.2 = s.faultHdr ∧ (s.faulted = true ↔ faultBit s.status = 1)

/-- A read of CAUSE is NONE, ILLEGAL_OP and RESERVED_NONZERO for the codes 0, 1 and 2, and a fault for the
reserved codes; in a sound state it never faults (10_state.md R24; 93_implementation_defined.md item 11). -/
def Obligations.CauseReadsItsCodeOrFaults : Prop :=
  ∀ s : State,
    (causeField s.status = 0 → s.readCause = .ok none) ∧
    (∀ k, causeField s.status = causeCode k → s.readCause = .ok (some k)) ∧
    (3 ≤ (causeField s.status).toNat → s.readCause = .error .reservedCause) ∧
    (s.StatusInv → s.readCause ≠ .error .reservedCause)

/-- 10_state.md R31: the reset values the spec gives. -/
def Obligations.ResetValues : Prop :=
  State.reset.cnt = 0x00000000 ∧ State.reset.status = 0x00 ∧ State.reset.faultHdr = 0x00000000 ∧
  State.reset.out = [] ∧ State.reset.phase = .idle

/-- 10_state.md R34: a step of one block leaves every other block's state as it is, and what it does does
not depend on theirs. For the number of no block, where nothing happens, it is the model's choice (log
entry 22). -/
def Obligations.BlocksAreIndependent : Prop :=
  (∀ (k j : Nat) (blocks after : List State), stepAt k blocks = .next after → j ≠ k →
    after[j]? = blocks[j]?) ∧
  (∀ (k : Nat) (blocks others after after' : List State), blocks[k]? = others[k]? →
    stepAt k blocks = .next after → stepAt k others = .next after' → after[k]? = after'[k]?)
end

