-- ==== Sys2Proof/Laws/Operands.lean ====
section
/-! SUPPORT. Bit fields, byte orders and header words. -/

namespace Sys2Proof.Machine

@[simp] theorem le32_length (v : Word) : (le32 v).length = 4 := rfl

@[simp] theorem serialize_length (r : TelemetryRecord) : (serialize r).length = 8 := rfl

theorem byteOf_toNat (k : Nat) (v : Word) : (byteOf k v).toNat = v.toNat / 2 ^ (8 * k) % 256 := by
  simp [byteOf, Nat.shiftRight_eq_div_pow]

theorem hiByte_toNat (n : Half) : (hiByte n).toNat = n.toNat / 256 := by
  have := n.isLt
  simp [hiByte, Nat.shiftRight_eq_div_pow]; omega

theorem loByte_toNat (n : Half) : (loByte n).toNat = n.toNat % 256 := by
  simp [loByte]

theorem opField_toNat (h : Word) : (opField h).toNat = h.toNat / 2 ^ 24 := by
  have := h.isLt
  simp [opField, Nat.shiftRight_eq_div_pow]; omega

theorem typeField_toNat (h : Word) : (typeField h).toNat = h.toNat / 2 ^ 16 % 256 := by
  simp [typeField, Nat.shiftRight_eq_div_pow]

theorem lenField_toNat (h : Word) : (lenField h).toNat = h.toNat % 2 ^ 16 := by
  simp [lenField]

theorem reservedField_toNat (h : Word) : (reservedField h).toNat = h.toNat % 2 ^ 24 := by
  simp [reservedField]

theorem frameHeader_toNat (t : Byte) (n : Half) :
    (frameHeader t n).toNat = 2 ^ 24 + t.toNat * 2 ^ 16 + n.toNat := by
  have h1 := t.isLt
  have h2 := n.isLt
  unfold frameHeader
  rw [BitVec.toNat_append, BitVec.toNat_append, ← Nat.shiftLeft_add_eq_or_of_lt h2,
    ← Nat.shiftLeft_add_eq_or_of_lt h1]
  simp [Nat.shiftLeft_eq]; omega

@[simp] theorem opField_frameHeader (t : Byte) (n : Half) : opField (frameHeader t n) = 1 := by
  apply BitVec.eq_of_toNat_eq
  have h1 := t.isLt
  have h2 := n.isLt
  rw [opField_toNat, frameHeader_toNat]; simp; omega

@[simp] theorem typeField_frameHeader (t : Byte) (n : Half) : typeField (frameHeader t n) = t := by
  apply BitVec.eq_of_toNat_eq
  have h1 := t.isLt
  have h2 := n.isLt
  rw [typeField_toNat, frameHeader_toNat]; omega

@[simp] theorem lenField_frameHeader (t : Byte) (n : Half) : lenField (frameHeader t n) = n := by
  apply BitVec.eq_of_toNat_eq
  have h1 := t.isLt
  have h2 := n.isLt
  rw [lenField_toNat, frameHeader_toNat]; omega

/-- A header whose op field is FRAME's is rebuilt from its two other fields. -/
theorem frameHeader_fields (h : Word) (op : opField h = 1) :
    frameHeader (typeField h) (lenField h) = h := by
  apply BitVec.eq_of_toNat_eq
  have h1 := congrArg BitVec.toNat op
  rw [opField_toNat] at h1
  rw [frameHeader_toNat, typeField_toNat, lenField_toNat]
  simp at h1; omega

/-- A header whose op field is TLM's and whose reserved bits are 0 is TLM's header. -/
theorem tlmHeader_fields (h : Word) (op : opField h = 2) (r : reservedField h = 0) :
    h = tlmHeader := by
  apply BitVec.eq_of_toNat_eq
  have h1 := congrArg BitVec.toNat op
  have h2 := congrArg BitVec.toNat r
  rw [opField_toNat] at h1
  rw [reservedField_toNat] at h2
  simp [tlmHeader] at h1 h2 ⊢; omega

/-- Two's complement is undone by reading the pattern back (00_scope.md R8). -/
theorem bits32_sint32 (u : Word) : bits32 (sint32 u) = u := by
  simp [bits32, sint32]

/-- The weight a TLM reads is an s32, so no step serializes another integer (30_encoding.md R65). -/
theorem isS32_weightOf (w : Word) : IsS32 (weightOf w) := by
  unfold weightOf sint32
  constructor
  · simpa using BitVec.le_toInt (x := w)
  · simpa using BitVec.toInt_lt (x := w)

theorem sint32_bits32 (w : Int) (h : IsS32 w) : sint32 (bits32 w) = w := by
  obtain ⟨h1, h2⟩ := h
  unfold sint32 bits32
  rw [BitVec.toInt_ofInt, Int.bmod_eq_of_le] <;> simp <;> omega

/-- The number read from four little-endian bytes is the word they came from. -/
theorem leValue_le32 (v : Word) : leValue (le32 v) = v.toNat := by
  have := v.isLt
  simp only [le32, leValue, byteOf_toNat]; omega

end Sys2Proof.Machine
end

