-- ==== Sys2Proof/Laws/Decode.lean ====
section
/-! SUPPORT. What the decoder and the encoder do, one lemma for each function. -/

namespace Sys2Proof

open Machine

@[simp] theorem decodeHeader_frameHeader (t : Byte) (n : Half) :
    decodeHeader (frameHeader t n) = .frame t n := by
  simp [decodeHeader]

@[simp] theorem decodeHeader_tlmHeader : decodeHeader tlmHeader = .tlm := by decide

/-- The only header that decodes to a FRAME of type `t` and length `n`. -/
theorem decodeHeader_frame {h : Word} {t : Byte} {n : Half} (e : decodeHeader h = .frame t n) :
    h = frameHeader t n := by
  unfold decodeHeader at e
  split at e
  · rename_i op
    cases e
    exact (frameHeader_fields h op).symm
  · split at e
    · split at e <;> cases e
    · cases e

/-- The only header that decodes to TLM. -/
theorem decodeHeader_tlm {h : Word} (e : decodeHeader h = .tlm) : h = tlmHeader := by
  unfold decodeHeader at e
  split at e
  · cases e
  · split at e
    · rename_i op
      split at e
      · rename_i r
        exact tlmHeader_fields h op r
      · cases e
    · cases e

/-- The encoded form of a FRAME that has one. -/
theorem encode_frame (t : Byte) {p : List Byte} (h : PayloadFits p) :
    encode (.frame t p) = .word (frameHeader t (BitVec.ofNat 16 p.length)) :: p.map .byte :=
  if_pos h

@[simp] theorem encode_tlm (w : Word) : encode (.tlm w) = [.word tlmHeader, .word w] := rfl

/-- Data bytes presented in full are taken in full. -/
theorem takeBytes_map (p : List Byte) (rest : List Beat) :
    takeBytes p.length (p.map Beat.byte ++ rest) = some (p, rest) := by
  induction p with
  | nil => rfl
  | cons b p ih => simp [takeBytes, ih]

/-- What `takeBytes` answers is what the port presents: `n` bytes, then the rest. -/
theorem takeBytes_some {n : Nat} {bs rest : List Beat} {p : List Byte}
    (h : takeBytes n bs = some (p, rest)) : p.length = n ∧ bs = p.map Beat.byte ++ rest := by
  induction n generalizing bs p with
  | zero => cases h; simp
  | succ n ih =>
    match bs with
    | .byte b :: bs =>
      simp only [takeBytes, Option.map_eq_some_iff, Prod.mk.injEq] at h
      obtain ⟨r, hr, rfl, rfl⟩ := h
      obtain ⟨h1, h2⟩ := ih hr
      simp [h1, h2]
    | [] => cases h
    | .word w :: bs => cases h

/-- Everything `fetch` can answer, with what the port presents in each case. -/
theorem fetch_cases (bs : List Beat) :
    (fetch bs = .noHeader ∧ ∀ hdr rest, bs ≠ .word hdr :: rest) ∨
    (∃ hdr rest, bs = .word hdr :: rest ∧ fetch bs = .dataPending ∧
      ∀ k, decodeHeader hdr ≠ .fault k) ∨
    (∃ k hdr rest, bs = .word hdr :: rest ∧ fetch bs = .faulty k hdr rest ∧
      decodeHeader hdr = .fault k) ∨
    (∃ t p rest, bs = encode (.frame t p) ++ rest ∧ fetch bs = .command (.frame t p) rest ∧
      PayloadFits p) ∨
    (∃ w rest, bs = encode (.tlm w) ++ rest ∧ fetch bs = .command (.tlm w) rest) := by
  match bs with
  | [] => exact .inl ⟨rfl, by simp⟩
  | .byte b :: bs => exact .inl ⟨rfl, by simp⟩
  | .word hdr :: rest =>
    refine .inr ?_
    cases hd : decodeHeader hdr with
    | frame t n =>
      cases ht : takeBytes n.toNat rest with
      | none => exact .inl ⟨hdr, rest, rfl, by simp [fetch, hd, ht], by simp [hd]⟩
      | some r =>
        obtain ⟨p, rest'⟩ := r
        obtain ⟨hl, rfl⟩ := takeBytes_some ht
        have hf : PayloadFits p := by
          have := n.isLt
          simp [PayloadFits, Config.maxPayload]; omega
        refine .inr (.inr (.inl ⟨t, p, rest', ?_, by simp [fetch, hd, ht], hf⟩))
        have hn : BitVec.ofNat 16 p.length = n := by rw [hl]; simp
        simp [encode_frame t hf, hn, decodeHeader_frame hd]
    | tlm =>
      match rest with
      | .word w :: rest =>
        exact .inr (.inr (.inr ⟨w, rest, by simp [decodeHeader_tlm hd], by simp [fetch, hd]⟩))
      | [] => exact .inl ⟨hdr, [], rfl, by simp [fetch, hd], by simp [hd]⟩
      | .byte b :: rest => exact .inl ⟨hdr, _, rfl, by simp [fetch, hd], by simp [hd]⟩
    | fault k => exact .inr (.inl ⟨k, hdr, rest, rfl, by simp [fetch, hd], hd⟩)

end Sys2Proof
end

