-- ==== Sys2Proof/Laws/PerInstr.lean ====
section
/-! SUPPORT. A statement about the encoded form of every command, one lemma for each constructor. -/

namespace Sys2Proof.Laws

/-- The header alone tells the length of a command: the encoded form of a well-formed command begins
with a header word that is no fault, and is that word and as many bytes as a FRAME header's `len`
counts, or that word and one operand word (30_encoding.md R62, R72). -/
def EncodedLength.Statement (i : Instr) : Prop :=
  i.WellFormed →
    ∃ hdr data, encode i = .word hdr :: data ∧
      ((∃ t n, decodeHeader hdr = .frame t n ∧ data.length = n.toNat) ∨
        (decodeHeader hdr = .tlm ∧ data.length = 1))

theorem EncodedLength.frame (type : Byte) (payload : List Byte) :
    EncodedLength.Statement (.frame type payload) := by
  intro h
  have hp : PayloadFits payload := of_decide_eq_true h
  refine ⟨_, _, encode_frame type hp, .inl ⟨_, _, decodeHeader_frameHeader _ _, ?_⟩⟩
  simp only [PayloadFits, Config.maxPayload] at hp
  simp; omega

theorem EncodedLength.tlm (weight : Word) : EncodedLength.Statement (.tlm weight) := by
  intro _
  exact ⟨_, _, rfl, .inr ⟨decodeHeader_tlmHeader, rfl⟩⟩

end Sys2Proof.Laws
end

