-- ==== Sys2Proof/Laws/Program.lean ====
section
/-! SUPPORT. What presenting a line, running it and running a program can answer. -/

namespace Sys2Proof.Machine

/-- Everything presenting a line does to the state: a command's beats follow on the port, or a reset is
asserted in the next step. -/
theorem State.present_next {s s' : State} {l : Line} (h : s.present l = .next s') :
    (∃ c, l = .command c ∧ s' = { s with port := s.port ++ c.encode }) ∨
    (l = .reset ∧ s' = { s with pins := { reset := true, sinkReady := true } :: s.pins }) := by
  unfold State.present at h
  split at h
  · rename_i i
    split at h
    · cases h; exact .inl ⟨.instr i, rfl, rfl⟩
    · cases h
  · rename_i hdr; cases h; exact .inl ⟨.raw hdr, rfl, rfl⟩
  · cases h; exact .inr ⟨rfl, rfl⟩

/-- A line that runs was presented, and one step was taken. -/
theorem State.runLine_next {s u : State} {l : Line} (h : s.runLine l = .next u) :
    ∃ s', s.present l = .next s' ∧ step s' = .next u := by
  unfold State.runLine at h
  split at h
  · exact ⟨_, by assumption, h⟩
  · cases h
  · cases h

/-- A program whose run answers a next state took its first line, and then stopped there or went on. -/
theorem runLines_cons_next {s u : State} {l : Line} {ls : List Line} (h : runLines (l :: ls) s = .next u) :
    ∃ s', s.runLine l = .next s' ∧
      ((lineHolds l s s' = true ∧ u = s') ∨ (lineHolds l s s' = false ∧ runLines ls s' = .next u)) := by
  simp only [runLines] at h
  split at h
  · rename_i s' hs
    cases hh : lineHolds l s s' with
    | true => rw [if_pos hh] at h; cases h; exact ⟨_, hs, .inl ⟨hh, rfl⟩⟩
    | false => rw [if_neg (by simp [hh])] at h; exact ⟨_, hs, .inr ⟨hh, h⟩⟩
  · cases h
  · cases h

end Sys2Proof.Machine
end

