-- ==== Sys2Proof/Laws/State.lean ====
section
/-! SUPPORT. What each named operation does to each field of the state, so that no later proof unfolds
an update. -/

namespace Sys2Proof.Machine

variable (s : State)

/-! `tick` -/

@[simp] theorem State.tick_cnt : (s.tick).cnt = s.cnt := rfl
@[simp] theorem State.tick_status : (s.tick).status = s.status := rfl
@[simp] theorem State.tick_faultHdr : (s.tick).faultHdr = s.faultHdr := rfl
@[simp] theorem State.tick_out : (s.tick).out = s.out := rfl
@[simp] theorem State.tick_phase : (s.tick).phase = s.phase := rfl
@[simp] theorem State.tick_idx : (s.tick).idx = s.idx := rfl
@[simp] theorem State.tick_acc : (s.tick).acc = s.acc := rfl
@[simp] theorem State.tick_ltype : (s.tick).ltype = s.ltype := rfl
@[simp] theorem State.tick_llen : (s.tick).llen = s.llen := rfl
@[simp] theorem State.tick_lpay : (s.tick).lpay = s.lpay := rfl
@[simp] theorem State.tick_port : (s.tick).port = s.port := rfl
@[simp] theorem State.tick_pins : (s.tick).pins = s.pins.tail := rfl
@[simp] theorem State.tick_pinsAfter : (s.tick).pinsAfter = s.pinsAfter := rfl
@[simp] theorem State.tick_pos : (s.tick).pos = s.pos := rfl
@[simp] theorem State.tick_level : (s.tick).level = s.level := rfl
@[simp] theorem State.tick_freeCount : (s.tick).freeCount = s.freeCount := rfl

/-! `consume` -/

@[simp] theorem State.consume_cnt (rest : List Beat) : (s.consume rest).cnt = s.cnt := rfl
@[simp] theorem State.consume_status (rest : List Beat) : (s.consume rest).status = s.status := rfl
@[simp] theorem State.consume_faultHdr (rest : List Beat) :
    (s.consume rest).faultHdr = s.faultHdr := rfl
@[simp] theorem State.consume_out (rest : List Beat) : (s.consume rest).out = s.out := rfl
@[simp] theorem State.consume_phase (rest : List Beat) : (s.consume rest).phase = s.phase := rfl
@[simp] theorem State.consume_idx (rest : List Beat) : (s.consume rest).idx = s.idx := rfl
@[simp] theorem State.consume_acc (rest : List Beat) : (s.consume rest).acc = s.acc := rfl
@[simp] theorem State.consume_ltype (rest : List Beat) : (s.consume rest).ltype = s.ltype := rfl
@[simp] theorem State.consume_llen (rest : List Beat) : (s.consume rest).llen = s.llen := rfl
@[simp] theorem State.consume_lpay (rest : List Beat) : (s.consume rest).lpay = s.lpay := rfl
@[simp] theorem State.consume_port (rest : List Beat) : (s.consume rest).port = rest := rfl
@[simp] theorem State.consume_pins (rest : List Beat) : (s.consume rest).pins = s.pins := rfl
@[simp] theorem State.consume_pinsAfter (rest : List Beat) : (s.consume rest).pinsAfter = s.pinsAfter := rfl
@[simp] theorem State.consume_pos (rest : List Beat) : (s.consume rest).pos = s.pos + 1 := rfl
@[simp] theorem State.consume_level (rest : List Beat) : (s.consume rest).level = s.level := rfl
@[simp] theorem State.consume_freeCount (rest : List Beat) :
    (s.consume rest).freeCount = s.freeCount := rfl

/-! `emit` -/

@[simp] theorem State.emit_cnt (b : Byte) : (s.emit b).cnt = s.cnt := rfl
@[simp] theorem State.emit_status (b : Byte) : (s.emit b).status = s.status := rfl
@[simp] theorem State.emit_faultHdr (b : Byte) : (s.emit b).faultHdr = s.faultHdr := rfl
@[simp] theorem State.emit_out (b : Byte) : (s.emit b).out = s.out ++ [.byte b] := rfl
@[simp] theorem State.emit_phase (b : Byte) : (s.emit b).phase = s.phase := rfl
@[simp] theorem State.emit_idx (b : Byte) : (s.emit b).idx = s.idx := rfl
@[simp] theorem State.emit_acc (b : Byte) : (s.emit b).acc = s.acc := rfl
@[simp] theorem State.emit_ltype (b : Byte) : (s.emit b).ltype = s.ltype := rfl
@[simp] theorem State.emit_llen (b : Byte) : (s.emit b).llen = s.llen := rfl
@[simp] theorem State.emit_lpay (b : Byte) : (s.emit b).lpay = s.lpay := rfl
@[simp] theorem State.emit_port (b : Byte) : (s.emit b).port = s.port := rfl
@[simp] theorem State.emit_pins (b : Byte) : (s.emit b).pins = s.pins := rfl
@[simp] theorem State.emit_pinsAfter (b : Byte) : (s.emit b).pinsAfter = s.pinsAfter := rfl
@[simp] theorem State.emit_pos (b : Byte) : (s.emit b).pos = s.pos := rfl
@[simp] theorem State.emit_level (b : Byte) : (s.emit b).level = s.level := rfl
@[simp] theorem State.emit_freeCount (b : Byte) : (s.emit b).freeCount = s.freeCount := rfl

/-! `flush` -/

@[simp] theorem State.flush_cnt : (s.flush).cnt = s.cnt := rfl
@[simp] theorem State.flush_status : (s.flush).status = s.status := rfl
@[simp] theorem State.flush_faultHdr : (s.flush).faultHdr = s.faultHdr := rfl
@[simp] theorem State.flush_out : (s.flush).out = s.out ++ [.flush] := rfl
@[simp] theorem State.flush_phase : (s.flush).phase = s.phase := rfl
@[simp] theorem State.flush_idx : (s.flush).idx = s.idx := rfl
@[simp] theorem State.flush_acc : (s.flush).acc = s.acc := rfl
@[simp] theorem State.flush_ltype : (s.flush).ltype = s.ltype := rfl
@[simp] theorem State.flush_llen : (s.flush).llen = s.llen := rfl
@[simp] theorem State.flush_lpay : (s.flush).lpay = s.lpay := rfl
@[simp] theorem State.flush_port : (s.flush).port = s.port := rfl
@[simp] theorem State.flush_pins : (s.flush).pins = s.pins := rfl
@[simp] theorem State.flush_pinsAfter : (s.flush).pinsAfter = s.pinsAfter := rfl
@[simp] theorem State.flush_pos : (s.flush).pos = s.pos := rfl
@[simp] theorem State.flush_level : (s.flush).level = s.level := rfl
@[simp] theorem State.flush_freeCount : (s.flush).freeCount = s.freeCount := rfl

/-! `retire` -/

@[simp] theorem State.retire_cnt : (s.retire).cnt = s.cnt := rfl
@[simp] theorem State.retire_status : (s.retire).status = s.status := rfl
@[simp] theorem State.retire_faultHdr : (s.retire).faultHdr = s.faultHdr := rfl
@[simp] theorem State.retire_out : (s.retire).out = s.out := rfl
@[simp] theorem State.retire_phase : (s.retire).phase = .idle := rfl
@[simp] theorem State.retire_idx : (s.retire).idx = Config.freeIdx s.freeCount := rfl
@[simp] theorem State.retire_acc : (s.retire).acc = Config.freeAcc s.freeCount := rfl
@[simp] theorem State.retire_ltype : (s.retire).ltype = Config.freeLtype s.freeCount := rfl
@[simp] theorem State.retire_llen : (s.retire).llen = Config.freeLlen s.freeCount := rfl
@[simp] theorem State.retire_lpay : (s.retire).lpay = Config.freeLpay s.freeCount := rfl
@[simp] theorem State.retire_port : (s.retire).port = s.port := rfl
@[simp] theorem State.retire_pins : (s.retire).pins = s.pins := rfl
@[simp] theorem State.retire_pinsAfter : (s.retire).pinsAfter = s.pinsAfter := rfl
@[simp] theorem State.retire_pos : (s.retire).pos = s.pos := rfl
@[simp] theorem State.retire_level : (s.retire).level = s.level := rfl
@[simp] theorem State.retire_freeCount : (s.retire).freeCount = s.freeCount + 1 := rfl

/-! `writeStatus` -/

@[simp] theorem State.writeStatus_cnt (f : BitVec 1) (c : BitVec 3) :
    (s.writeStatus f c).cnt = s.cnt := rfl
@[simp] theorem State.writeStatus_status (f : BitVec 1) (c : BitVec 3) :
    (s.writeStatus f c).status = makeStatus f c := rfl
@[simp] theorem State.writeStatus_faultHdr (f : BitVec 1) (c : BitVec 3) :
    (s.writeStatus f c).faultHdr = s.faultHdr := rfl
@[simp] theorem State.writeStatus_out (f : BitVec 1) (c : BitVec 3) :
    (s.writeStatus f c).out = s.out := rfl
@[simp] theorem State.writeStatus_phase (f : BitVec 1) (c : BitVec 3) :
    (s.writeStatus f c).phase = s.phase := rfl
@[simp] theorem State.writeStatus_idx (f : BitVec 1) (c : BitVec 3) :
    (s.writeStatus f c).idx = s.idx := rfl
@[simp] theorem State.writeStatus_acc (f : BitVec 1) (c : BitVec 3) :
    (s.writeStatus f c).acc = s.acc := rfl
@[simp] theorem State.writeStatus_ltype (f : BitVec 1) (c : BitVec 3) :
    (s.writeStatus f c).ltype = s.ltype := rfl
@[simp] theorem State.writeStatus_llen (f : BitVec 1) (c : BitVec 3) :
    (s.writeStatus f c).llen = s.llen := rfl
@[simp] theorem State.writeStatus_lpay (f : BitVec 1) (c : BitVec 3) :
    (s.writeStatus f c).lpay = s.lpay := rfl
@[simp] theorem State.writeStatus_port (f : BitVec 1) (c : BitVec 3) :
    (s.writeStatus f c).port = s.port := rfl
@[simp] theorem State.writeStatus_pins (f : BitVec 1) (c : BitVec 3) :
    (s.writeStatus f c).pins = s.pins := rfl
@[simp] theorem State.writeStatus_pinsAfter (f : BitVec 1) (c : BitVec 3) :
    (s.writeStatus f c).pinsAfter = s.pinsAfter := rfl
@[simp] theorem State.writeStatus_pos (f : BitVec 1) (c : BitVec 3) :
    (s.writeStatus f c).pos = s.pos := rfl
@[simp] theorem State.writeStatus_level (f : BitVec 1) (c : BitVec 3) :
    (s.writeStatus f c).level = s.level := rfl
@[simp] theorem State.writeStatus_freeCount (f : BitVec 1) (c : BitVec 3) :
    (s.writeStatus f c).freeCount = s.freeCount := rfl

/-! `enterFault` -/

@[simp] theorem State.enterFault_cnt (k : Cause) (hdr : Word) :
    (s.enterFault k hdr).cnt = s.cnt := rfl
@[simp] theorem State.enterFault_status (k : Cause) (hdr : Word) :
    (s.enterFault k hdr).status = makeStatus 1 (causeCode k) := rfl
@[simp] theorem State.enterFault_faultHdr (k : Cause) (hdr : Word) :
    (s.enterFault k hdr).faultHdr = hdr := rfl
@[simp] theorem State.enterFault_out (k : Cause) (hdr : Word) :
    (s.enterFault k hdr).out = s.out := rfl
@[simp] theorem State.enterFault_phase (k : Cause) (hdr : Word) :
    (s.enterFault k hdr).phase = s.phase := rfl
@[simp] theorem State.enterFault_idx (k : Cause) (hdr : Word) :
    (s.enterFault k hdr).idx = s.idx := rfl
@[simp] theorem State.enterFault_acc (k : Cause) (hdr : Word) :
    (s.enterFault k hdr).acc = s.acc := rfl
@[simp] theorem State.enterFault_ltype (k : Cause) (hdr : Word) :
    (s.enterFault k hdr).ltype = s.ltype := rfl
@[simp] theorem State.enterFault_llen (k : Cause) (hdr : Word) :
    (s.enterFault k hdr).llen = s.llen := rfl
@[simp] theorem State.enterFault_lpay (k : Cause) (hdr : Word) :
    (s.enterFault k hdr).lpay = s.lpay := rfl
@[simp] theorem State.enterFault_port (k : Cause) (hdr : Word) :
    (s.enterFault k hdr).port = s.port := rfl
@[simp] theorem State.enterFault_pins (k : Cause) (hdr : Word) :
    (s.enterFault k hdr).pins = s.pins := rfl
@[simp] theorem State.enterFault_pinsAfter (k : Cause) (hdr : Word) :
    (s.enterFault k hdr).pinsAfter = s.pinsAfter := rfl
@[simp] theorem State.enterFault_pos (k : Cause) (hdr : Word) :
    (s.enterFault k hdr).pos = s.pos := rfl
@[simp] theorem State.enterFault_level (k : Cause) (hdr : Word) :
    (s.enterFault k hdr).level = s.level := rfl
@[simp] theorem State.enterFault_freeCount (k : Cause) (hdr : Word) :
    (s.enterFault k hdr).freeCount = s.freeCount := rfl

/-! `applyReset` -/

@[simp] theorem State.applyReset_cnt : (s.applyReset).cnt = 0 := rfl
@[simp] theorem State.applyReset_status : (s.applyReset).status = 0 := rfl
@[simp] theorem State.applyReset_faultHdr : (s.applyReset).faultHdr = 0 := rfl
@[simp] theorem State.applyReset_out : (s.applyReset).out = s.out := rfl
@[simp] theorem State.applyReset_phase : (s.applyReset).phase = .idle := rfl
@[simp] theorem State.applyReset_idx : (s.applyReset).idx = 0 := rfl
@[simp] theorem State.applyReset_acc : (s.applyReset).acc = 0 := rfl
@[simp] theorem State.applyReset_ltype : (s.applyReset).ltype = 0 := rfl
@[simp] theorem State.applyReset_llen : (s.applyReset).llen = 0 := rfl
@[simp] theorem State.applyReset_lpay : (s.applyReset).lpay = [] := rfl
@[simp] theorem State.applyReset_port : (s.applyReset).port = s.port.dropWhile isByteBeat := rfl
@[simp] theorem State.applyReset_pins : (s.applyReset).pins = s.pins := rfl
@[simp] theorem State.applyReset_pinsAfter : (s.applyReset).pinsAfter = s.pinsAfter := rfl
@[simp] theorem State.applyReset_pos : (s.applyReset).pos = s.pos := rfl
@[simp] theorem State.applyReset_level : (s.applyReset).level = s.level := rfl
@[simp] theorem State.applyReset_freeCount : (s.applyReset).freeCount = s.freeCount := rfl

/-! `bumpCounter` -/

@[simp] theorem State.bumpCounter_cnt : (s.bumpCounter).cnt = s.cnt + 1 := rfl
@[simp] theorem State.bumpCounter_status : (s.bumpCounter).status = s.status := rfl
@[simp] theorem State.bumpCounter_faultHdr : (s.bumpCounter).faultHdr = s.faultHdr := rfl
@[simp] theorem State.bumpCounter_out : (s.bumpCounter).out = s.out := rfl
@[simp] theorem State.bumpCounter_phase : (s.bumpCounter).phase = s.phase := rfl
@[simp] theorem State.bumpCounter_idx : (s.bumpCounter).idx = s.idx := rfl
@[simp] theorem State.bumpCounter_acc : (s.bumpCounter).acc = s.acc := rfl
@[simp] theorem State.bumpCounter_ltype : (s.bumpCounter).ltype = s.ltype := rfl
@[simp] theorem State.bumpCounter_llen : (s.bumpCounter).llen = s.llen := rfl
@[simp] theorem State.bumpCounter_lpay : (s.bumpCounter).lpay = s.lpay := rfl
@[simp] theorem State.bumpCounter_port : (s.bumpCounter).port = s.port := rfl
@[simp] theorem State.bumpCounter_pins : (s.bumpCounter).pins = s.pins := rfl
@[simp] theorem State.bumpCounter_pinsAfter : (s.bumpCounter).pinsAfter = s.pinsAfter := rfl
@[simp] theorem State.bumpCounter_pos : (s.bumpCounter).pos = s.pos := rfl
@[simp] theorem State.bumpCounter_level : (s.bumpCounter).level = s.level := rfl
@[simp] theorem State.bumpCounter_freeCount : (s.bumpCounter).freeCount = s.freeCount := rfl

/-! `latch` -/

@[simp] theorem State.latch_cnt (t : Byte) (n : Half) (p : List Byte) :
    (s.latch t n p).cnt = s.cnt := rfl
@[simp] theorem State.latch_status (t : Byte) (n : Half) (p : List Byte) :
    (s.latch t n p).status = s.status := rfl
@[simp] theorem State.latch_faultHdr (t : Byte) (n : Half) (p : List Byte) :
    (s.latch t n p).faultHdr = s.faultHdr := rfl
@[simp] theorem State.latch_out (t : Byte) (n : Half) (p : List Byte) :
    (s.latch t n p).out = s.out := rfl
@[simp] theorem State.latch_phase (t : Byte) (n : Half) (p : List Byte) :
    (s.latch t n p).phase = .magic0 := rfl
@[simp] theorem State.latch_idx (t : Byte) (n : Half) (p : List Byte) :
    (s.latch t n p).idx = 0 := rfl
@[simp] theorem State.latch_acc (t : Byte) (n : Half) (p : List Byte) :
    (s.latch t n p).acc = 0 := rfl
@[simp] theorem State.latch_ltype (t : Byte) (n : Half) (p : List Byte) :
    (s.latch t n p).ltype = t := rfl
@[simp] theorem State.latch_llen (t : Byte) (n : Half) (p : List Byte) :
    (s.latch t n p).llen = n := rfl
@[simp] theorem State.latch_lpay (t : Byte) (n : Half) (p : List Byte) :
    (s.latch t n p).lpay = p := rfl
@[simp] theorem State.latch_port (t : Byte) (n : Half) (p : List Byte) :
    (s.latch t n p).port = s.port := rfl
@[simp] theorem State.latch_pins (t : Byte) (n : Half) (p : List Byte) :
    (s.latch t n p).pins = s.pins := rfl
@[simp] theorem State.latch_pinsAfter (t : Byte) (n : Half) (p : List Byte) :
    (s.latch t n p).pinsAfter = s.pinsAfter := rfl
@[simp] theorem State.latch_pos (t : Byte) (n : Half) (p : List Byte) :
    (s.latch t n p).pos = s.pos := rfl
@[simp] theorem State.latch_level (t : Byte) (n : Half) (p : List Byte) :
    (s.latch t n p).level = s.level := rfl
@[simp] theorem State.latch_freeCount (t : Byte) (n : Half) (p : List Byte) :
    (s.latch t n p).freeCount = s.freeCount := rfl

/-! `addToAcc` -/

@[simp] theorem State.addToAcc_cnt (b : Byte) : (s.addToAcc b).cnt = s.cnt := rfl
@[simp] theorem State.addToAcc_status (b : Byte) : (s.addToAcc b).status = s.status := rfl
@[simp] theorem State.addToAcc_faultHdr (b : Byte) : (s.addToAcc b).faultHdr = s.faultHdr := rfl
@[simp] theorem State.addToAcc_out (b : Byte) : (s.addToAcc b).out = s.out := rfl
@[simp] theorem State.addToAcc_phase (b : Byte) : (s.addToAcc b).phase = s.phase := rfl
@[simp] theorem State.addToAcc_idx (b : Byte) : (s.addToAcc b).idx = s.idx := rfl
@[simp] theorem State.addToAcc_acc (b : Byte) : (s.addToAcc b).acc = accumulate s.acc b := rfl
@[simp] theorem State.addToAcc_ltype (b : Byte) : (s.addToAcc b).ltype = s.ltype := rfl
@[simp] theorem State.addToAcc_llen (b : Byte) : (s.addToAcc b).llen = s.llen := rfl
@[simp] theorem State.addToAcc_lpay (b : Byte) : (s.addToAcc b).lpay = s.lpay := rfl
@[simp] theorem State.addToAcc_port (b : Byte) : (s.addToAcc b).port = s.port := rfl
@[simp] theorem State.addToAcc_pins (b : Byte) : (s.addToAcc b).pins = s.pins := rfl
@[simp] theorem State.addToAcc_pinsAfter (b : Byte) : (s.addToAcc b).pinsAfter = s.pinsAfter := rfl
@[simp] theorem State.addToAcc_pos (b : Byte) : (s.addToAcc b).pos = s.pos := rfl
@[simp] theorem State.addToAcc_level (b : Byte) : (s.addToAcc b).level = s.level := rfl
@[simp] theorem State.addToAcc_freeCount (b : Byte) : (s.addToAcc b).freeCount = s.freeCount := rfl

/-! `emitAll` and `sendFrame` -/

/-- Emitting a sequence appends its bytes to OUT, in order, and does nothing else. -/
theorem State.emitAll_eq (bs : List Byte) :
    s.emitAll bs = { s with out := s.out ++ bs.map Event.byte } := by
  unfold State.emitAll
  induction bs generalizing s with
  | nil => simp
  | cons b bs ih => rw [List.foldl_cons, ih (s.emit b)]; simp [State.emit]

/-- A command's frame and Flush go to OUT in one piece and the framer is left in IDLE. -/
theorem State.sendFrame_eq (t : Byte) (p : List Byte) :
    s.sendFrame t p = { s.retire with out := s.out ++ frameEvents t p } := by
  simp [State.sendFrame, State.emitAll_eq, State.flush, State.retire, frameEvents]

@[simp] theorem State.sendFrame_cnt (t : Byte) (p : List Byte) :
    (s.sendFrame t p).cnt = s.cnt := by simp [State.sendFrame_eq]
@[simp] theorem State.sendFrame_status (t : Byte) (p : List Byte) :
    (s.sendFrame t p).status = s.status := by simp [State.sendFrame_eq]
@[simp] theorem State.sendFrame_faultHdr (t : Byte) (p : List Byte) :
    (s.sendFrame t p).faultHdr = s.faultHdr := by simp [State.sendFrame_eq]
@[simp] theorem State.sendFrame_out (t : Byte) (p : List Byte) :
    (s.sendFrame t p).out = s.out ++ frameEvents t p := by simp [State.sendFrame_eq]
@[simp] theorem State.sendFrame_phase (t : Byte) (p : List Byte) :
    (s.sendFrame t p).phase = .idle := by simp [State.sendFrame_eq]
@[simp] theorem State.sendFrame_idx (t : Byte) (p : List Byte) :
    (s.sendFrame t p).idx = Config.freeIdx s.freeCount := by simp [State.sendFrame_eq]
@[simp] theorem State.sendFrame_acc (t : Byte) (p : List Byte) :
    (s.sendFrame t p).acc = Config.freeAcc s.freeCount := by simp [State.sendFrame_eq]
@[simp] theorem State.sendFrame_ltype (t : Byte) (p : List Byte) :
    (s.sendFrame t p).ltype = Config.freeLtype s.freeCount := by simp [State.sendFrame_eq]
@[simp] theorem State.sendFrame_llen (t : Byte) (p : List Byte) :
    (s.sendFrame t p).llen = Config.freeLlen s.freeCount := by simp [State.sendFrame_eq]
@[simp] theorem State.sendFrame_lpay (t : Byte) (p : List Byte) :
    (s.sendFrame t p).lpay = Config.freeLpay s.freeCount := by simp [State.sendFrame_eq]
@[simp] theorem State.sendFrame_port (t : Byte) (p : List Byte) :
    (s.sendFrame t p).port = s.port := by simp [State.sendFrame_eq]
@[simp] theorem State.sendFrame_pins (t : Byte) (p : List Byte) :
    (s.sendFrame t p).pins = s.pins := by simp [State.sendFrame_eq]
@[simp] theorem State.sendFrame_pinsAfter (t : Byte) (p : List Byte) :
    (s.sendFrame t p).pinsAfter = s.pinsAfter := by simp [State.sendFrame_eq]
@[simp] theorem State.sendFrame_pos (t : Byte) (p : List Byte) :
    (s.sendFrame t p).pos = s.pos := by simp [State.sendFrame_eq]
@[simp] theorem State.sendFrame_level (t : Byte) (p : List Byte) :
    (s.sendFrame t p).level = s.level := by simp [State.sendFrame_eq]
@[simp] theorem State.sendFrame_freeCount (t : Byte) (p : List Byte) :
    (s.sendFrame t p).freeCount = s.freeCount + 1 := by simp [State.sendFrame_eq]

/-! `emitSummed` and `latchPayload` -/

@[simp] theorem State.emitSummed_cnt (b : Byte) : (s.emitSummed b).cnt = s.cnt := rfl
@[simp] theorem State.emitSummed_status (b : Byte) : (s.emitSummed b).status = s.status := rfl
@[simp] theorem State.emitSummed_faultHdr (b : Byte) : (s.emitSummed b).faultHdr = s.faultHdr := rfl
@[simp] theorem State.emitSummed_out (b : Byte) : (s.emitSummed b).out = s.out ++ [.byte b] := rfl
@[simp] theorem State.emitSummed_phase (b : Byte) : (s.emitSummed b).phase = s.phase := rfl
@[simp] theorem State.emitSummed_idx (b : Byte) : (s.emitSummed b).idx = s.idx := rfl
@[simp] theorem State.emitSummed_acc (b : Byte) : (s.emitSummed b).acc = accumulate s.acc b := rfl
@[simp] theorem State.emitSummed_ltype (b : Byte) : (s.emitSummed b).ltype = s.ltype := rfl
@[simp] theorem State.emitSummed_llen (b : Byte) : (s.emitSummed b).llen = s.llen := rfl
@[simp] theorem State.emitSummed_lpay (b : Byte) : (s.emitSummed b).lpay = s.lpay := rfl
@[simp] theorem State.emitSummed_port (b : Byte) : (s.emitSummed b).port = s.port := rfl
@[simp] theorem State.emitSummed_pins (b : Byte) : (s.emitSummed b).pins = s.pins := rfl
@[simp] theorem State.emitSummed_pinsAfter (b : Byte) : (s.emitSummed b).pinsAfter = s.pinsAfter := rfl
@[simp] theorem State.emitSummed_pos (b : Byte) : (s.emitSummed b).pos = s.pos := rfl
@[simp] theorem State.emitSummed_level (b : Byte) : (s.emitSummed b).level = s.level := rfl
@[simp] theorem State.emitSummed_freeCount (b : Byte) : (s.emitSummed b).freeCount = s.freeCount := rfl

@[simp] theorem State.latchPayload_cnt (b : Byte) : (s.latchPayload b).cnt = s.cnt := by
  unfold State.latchPayload; split <;> rfl
@[simp] theorem State.latchPayload_status (b : Byte) : (s.latchPayload b).status = s.status := by
  unfold State.latchPayload; split <;> rfl
@[simp] theorem State.latchPayload_faultHdr (b : Byte) : (s.latchPayload b).faultHdr = s.faultHdr := by
  unfold State.latchPayload; split <;> rfl
@[simp] theorem State.latchPayload_out (b : Byte) : (s.latchPayload b).out = s.out := by
  unfold State.latchPayload; split <;> rfl
@[simp] theorem State.latchPayload_phase (b : Byte) : (s.latchPayload b).phase = s.phase := by
  unfold State.latchPayload; split <;> rfl
@[simp] theorem State.latchPayload_idx (b : Byte) : (s.latchPayload b).idx = s.idx := by
  unfold State.latchPayload; split <;> rfl
@[simp] theorem State.latchPayload_acc (b : Byte) : (s.latchPayload b).acc = s.acc := by
  unfold State.latchPayload; split <;> rfl
@[simp] theorem State.latchPayload_ltype (b : Byte) : (s.latchPayload b).ltype = s.ltype := by
  unfold State.latchPayload; split <;> rfl
@[simp] theorem State.latchPayload_llen (b : Byte) : (s.latchPayload b).llen = s.llen := by
  unfold State.latchPayload; split <;> rfl
@[simp] theorem State.latchPayload_pins (b : Byte) : (s.latchPayload b).pins = s.pins := by
  unfold State.latchPayload; split <;> rfl
@[simp] theorem State.latchPayload_pinsAfter (b : Byte) : (s.latchPayload b).pinsAfter = s.pinsAfter := by
  unfold State.latchPayload; split <;> rfl
@[simp] theorem State.latchPayload_pos (b : Byte) : (s.latchPayload b).pos = s.pos := by
  unfold State.latchPayload; split <;> rfl
@[simp] theorem State.latchPayload_level (b : Byte) : (s.latchPayload b).level = s.level := by
  unfold State.latchPayload; split <;> rfl
@[simp] theorem State.latchPayload_freeCount (b : Byte) : (s.latchPayload b).freeCount = s.freeCount := by
  unfold State.latchPayload; split <;> rfl

/-! Flags and inputs -/

theorem State.pin_of_nil (h : s.pins = []) : s.pin = s.pinsAfter := by
  simp [State.pin, h]

theorem State.pin_of_cons {p : Pins} {ps : List Pins} (h : s.pins = p :: ps) : s.pin = p := by
  simp [State.pin, h]

@[simp] theorem statusReserved_makeStatus (f : BitVec 1) (c : BitVec 3) :
    statusReserved (makeStatus f c) = 0 := by
  revert f c; decide

@[simp] theorem causeField_makeStatus (f : BitVec 1) (c : BitVec 3) :
    causeField (makeStatus f c) = c := by
  revert f c; decide

@[simp] theorem faultBit_makeStatus (f : BitVec 1) (c : BitVec 3) :
    faultBit (makeStatus f c) = f := by
  revert f c; decide

/-- Masking bits 7:4 leaves STATUS.FAULT as it is. -/
theorem State.faulted_eq : s.faulted = (faultBit s.status == 1) := by
  have h : ∀ b : Byte, faultBit (b &&& 0x0F) = faultBit b := by decide
  unfold State.faulted State.readStatus; rw [h]

theorem State.faulted_congr {s t : State} (h : t.status = s.status) : t.faulted = s.faulted := by
  simp [State.faulted_eq, h]

/-- The block may execute exactly when STATUS.FAULT = 0 and PHASE = IDLE. -/
theorem State.enabled_iff : s.enabled = true ↔ s.faulted = false ∧ s.phase = .idle := by
  simp [State.enabled]

end Sys2Proof.Machine
end

