-- ==== Sys2Proof/Laws/Wire.lean ====
section
/-! SUPPORT. The checksum fold and the frame. -/

namespace Sys2Proof.Machine

@[simp] theorem xorFold_nil : xorFold [] = 0 := rfl

/-- The fold from any start is the start XORed with the fold from 0. -/
theorem foldl_accumulate (a : Byte) (s : List Byte) : s.foldl accumulate a = a ^^^ xorFold s := by
  unfold xorFold
  induction s generalizing a with
  | nil => simp
  | cons b s ih =>
    rw [List.foldl_cons, List.foldl_cons, ih, ih (accumulate 0 b)]
    simp [accumulate, BitVec.xor_assoc]

@[simp] theorem xorFold_cons (b : Byte) (s : List Byte) : xorFold (b :: s) = b ^^^ xorFold s := by
  rw [xorFold, List.foldl_cons, foldl_accumulate]; simp [accumulate]

theorem xorFold_append (s u : List Byte) : xorFold (s ++ u) = xorFold s ^^^ xorFold u := by
  rw [xorFold, List.foldl_append, foldl_accumulate]; rfl

/-- One update of ACC extends the fold by one byte (41_checksum.md R95). -/
theorem accumulate_xorFold (s : List Byte) (b : Byte) :
    accumulate (xorFold s) b = xorFold (s ++ [b]) := by
  simp [xorFold_append, accumulate]

@[simp] theorem buildFrame_length (t : Byte) (p : List Byte) :
    (buildFrame t p).length = p.length + 6 := by
  simp [buildFrame]

/-- The frame, taken apart once (30_encoding.md R66). -/
theorem buildFrame_eq (t : Byte) (p : List Byte) :
    buildFrame t p =
      [0xAA, 0x55] ++ checksummed t (BitVec.ofNat 16 p.length) p ++
        [xorFold (checksummed t (BitVec.ofNat 16 p.length) p)] := by
  simp [buildFrame, checksummed, Config.magic0, Config.magic1]

@[simp] theorem wireBytes_append (a b : List Event) :
    wireBytes (a ++ b) = wireBytes a ++ wireBytes b := by
  induction a with
  | nil => rfl
  | cons e a ih => cases e <;> simp [wireBytes, ih]

@[simp] theorem wireBytes_map_byte (s : List Byte) : wireBytes (s.map Event.byte) = s := by
  induction s with
  | nil => rfl
  | cons b s ih => simp [wireBytes, ih]

@[simp] theorem wireBytes_frameEvents (t : Byte) (p : List Byte) :
    wireBytes (frameEvents t p) = buildFrame t p := by
  simp [frameEvents, wireBytes]

theorem framed_nil : Framed [] := ⟨[], by simp, rfl⟩

/-- One more whole frame keeps OUT a concatenation of whole frames. -/
theorem Framed.snoc {out : List Event} (h : Framed out) (t : Byte) {p : List Byte}
    (hp : PayloadFits p) : Framed (out ++ frameEvents t p) := by
  obtain ⟨fs, hf, rfl⟩ := h
  refine ⟨fs ++ [(t, p)], ?_, by simp [framesEvents]⟩
  intro f hm
  rcases List.mem_append.mp hm with h | h
  · exact hf f h
  · cases List.mem_singleton.mp h; exact hp

end Sys2Proof.Machine
end

