-- ==== Sys2Proof/Laws/Step.lean ====
section
/-! SUPPORT. What a meaning, an action and a step can do: the inversion lemmas later proofs cite. -/

namespace Sys2Proof.Machine

/-- Everything FRAME can answer with a next state. -/
theorem execFrame_next {t : Byte} {p : List Byte} {s s' : State}
    (h : execFrame t p s = .next s') :
    PayloadFits p ∧
      ((s.enabled = true ∧ s' = s.sendFrame t p) ∨ (s.enabled = false ∧ s' = s)) := by
  unfold execFrame at h
  split at h
  · rename_i hp
    refine ⟨hp, ?_⟩
    split at h
    · rename_i he; cases h; exact .inl ⟨he, rfl⟩
    · rename_i he; cases h; exact .inr ⟨by simpa using he, rfl⟩
  · cases h

/-- Everything TLM can answer with a next state. -/
theorem execTlm_next {w : Word} {s s' : State} (h : execTlm w s = .next s') :
    (s.enabled = true ∧
      s' = s.bumpCounter.sendFrame Config.typeTelemetry (serialize (s.record w))) ∨
    (s.enabled = false ∧ s' = s) := by
  unfold execTlm at h
  split at h
  · rename_i he; cases h; exact .inl ⟨he, rfl⟩
  · rename_i he; cases h; exact .inr ⟨by simpa using he, rfl⟩

/-- Everything `nextAction` can answer, with what the state and its inputs are in each case. -/
theorem nextAction_cases (s : State) :
    (s.nextAction = .reset ∧ s.pin.reset = true) ∨
    (∃ why, s.nextAction = .hold why ∧ s.pin.reset = false) ∨
    (∃ k hdr rest, s.nextAction = .takeFault k hdr rest ∧ s.pin.reset = false ∧
      s.enabled = true ∧ s.port = .word hdr :: rest ∧ decodeHeader hdr = .fault k) ∨
    (∃ t p rest, s.nextAction = .execute (.frame t p) rest ∧ s.pin.reset = false ∧
      s.enabled = true ∧ s.level = .transaction ∧ s.pin.sinkReady = true ∧ PayloadFits p ∧
      s.port = encode (.frame t p) ++ rest) ∨
    (∃ w rest, s.nextAction = .execute (.tlm w) rest ∧ s.pin.reset = false ∧
      s.enabled = true ∧ s.level = .transaction ∧ s.pin.sinkReady = true ∧
      s.port = encode (.tlm w) ++ rest) ∨
    (∃ t n rest, s.nextAction = .startFrame t n rest ∧ s.pin.reset = false ∧
      s.enabled = true ∧ s.level = .byteSerial ∧ s.port = .word (frameHeader t n) :: rest) ∨
    (∃ w rest, s.nextAction = .startTlm w rest ∧ s.pin.reset = false ∧
      s.enabled = true ∧ s.level = .byteSerial ∧ s.port = encode (.tlm w) ++ rest) ∨
    (s.nextAction = .transfer ∧ s.pin.reset = false ∧ s.faulted = false ∧ s.phase ≠ .idle ∧
      s.pin.sinkReady = true ∧ (s.phase = .payload → s.payloadByte ≠ none)) := by
  unfold State.nextAction
  cases hr : s.pin.reset with
  | true => simp
  | false =>
    cases hf : s.faulted with
    | true => simp
    | false =>
      by_cases hp : s.phase = .idle
      · have he : s.enabled = true := (s.enabled_iff).mpr ⟨hf, hp⟩
        cases hl : s.level with
        | transaction =>
          simp only [hp, he]
          unfold State.transactionAction
          rcases fetch_cases s.port with ⟨h, -⟩ | ⟨hdr, rest, -, h, -⟩ | ⟨k, hdr, rest, e, h, hk⟩ |
            ⟨t, p, rest, e, h, hf⟩ | ⟨w, rest, e, h⟩
          · simp [h]
          · simp [h]
          · rw [h]; simp [e, hk]
          · rw [h]
            cases hs : s.pin.sinkReady with
            | true => simp [e, hf]
            | false => simp
          · rw [h]
            cases hs : s.pin.sinkReady with
            | true => simp [e]
            | false => simp
        | byteSerial =>
          simp only [hp, he]
          unfold State.startAction
          match hq : s.port with
          | [] => simp
          | .byte b :: bs => simp
          | .word hdr :: rest =>
            cases hd : decodeHeader hdr with
            | frame t n => simp [decodeHeader_frame hd]
            | fault k => simp [hd]
            | tlm =>
              cases decodeHeader_tlm hd
              match rest with
              | .word w :: rest => simp [encode]
              | [] => simp
              | .byte b :: rest => simp
      · simp only [hp]
        unfold State.transferAction
        cases hs : s.pin.sinkReady with
        | false => simp
        | true =>
          by_cases hw : s.phase = .payload ∧ s.payloadByte = none
          · simp [hw]
          · simp [hw]; exact ⟨hp, by simpa using hw⟩

@[simp] theorem enabled_tick_consume (s : State) (rest : List Beat) :
    (s.tick.consume rest).enabled = s.enabled := rfl

/-- Everything a step can do. -/
theorem step_cases {s s' : State} (h : step s = .next s') :
    (s.pin.reset = true ∧ s' = s.tick.applyReset) ∨
    (s.pin.reset = false ∧ s' = s.tick) ∨
    (∃ k hdr rest, s.pin.reset = false ∧ s.enabled = true ∧ s.port = .word hdr :: rest ∧
      decodeHeader hdr = .fault k ∧ s' = (s.tick.consume rest).enterFault k hdr) ∨
    (∃ t p rest, s.pin.reset = false ∧ s.enabled = true ∧ s.level = .transaction ∧
      s.port = encode (.frame t p) ++ rest ∧ PayloadFits p ∧
      s' = (s.tick.consume rest).sendFrame t p) ∨
    (∃ w rest, s.pin.reset = false ∧ s.enabled = true ∧ s.level = .transaction ∧
      s.port = encode (.tlm w) ++ rest ∧
      s' = (s.tick.consume rest).bumpCounter.sendFrame Config.typeTelemetry
        (serialize (s.record w))) ∨
    (∃ t n rest, s.pin.reset = false ∧ s.enabled = true ∧ s.level = .byteSerial ∧
      s.port = .word (frameHeader t n) :: rest ∧ s' = (s.tick.consume rest).startFrame t n) ∨
    (∃ w rest, s.pin.reset = false ∧ s.enabled = true ∧ s.level = .byteSerial ∧
      s.port = encode (.tlm w) ++ rest ∧ s' = (s.tick.consume rest).startTlm w) ∨
    (s.pin.reset = false ∧ s.faulted = false ∧ s.phase ≠ .idle ∧ s.pin.sinkReady = true ∧
      (s.phase = .payload → s.payloadByte ≠ none) ∧ s' = s.tick.transfer) := by
  unfold step at h
  rcases nextAction_cases s with ⟨ha, hr⟩ | ⟨why, ha, hr⟩ | ⟨k, hdr, rest, ha, hr, he, hq, hd⟩ |
    ⟨t, p, rest, ha, hr, he, hl, hs, hp, hq⟩ | ⟨w, rest, ha, hr, he, hl, hs, hq⟩ |
    ⟨t, n, rest, ha, hr, he, hl, hq⟩ | ⟨w, rest, ha, hr, he, hl, hq⟩ | ⟨ha, hr, hf, hi, hs, hw⟩
  all_goals rw [ha] at h
  · cases h; exact .inl ⟨hr, rfl⟩
  · cases h; exact .inr (.inl ⟨hr, rfl⟩)
  · cases h; exact .inr (.inr (.inl ⟨k, hdr, rest, hr, he, hq, hd, rfl⟩))
  · rcases (execFrame_next h).2 with ⟨-, rfl⟩ | ⟨hn, -⟩
    · exact .inr (.inr (.inr (.inl ⟨t, p, rest, hr, he, hl, hq, hp, rfl⟩)))
    · simp [he] at hn
  · rcases execTlm_next h with ⟨-, rfl⟩ | ⟨hn, -⟩
    · exact .inr (.inr (.inr (.inr (.inl ⟨w, rest, hr, he, hl, hq, rfl⟩))))
    · simp [he] at hn
  · cases h; exact .inr (.inr (.inr (.inr (.inr (.inl ⟨t, n, rest, hr, he, hl, hq, rfl⟩)))))
  · cases h; exact .inr (.inr (.inr (.inr (.inr (.inr (.inl ⟨w, rest, hr, he, hl, hq, rfl⟩))))))
  · cases h; exact .inr (.inr (.inr (.inr (.inr (.inr (.inr ⟨hr, hf, hi, hs, hw, rfl⟩))))))

/-- An invariant that reset has and every step keeps holds along every run, and a run never stops other
than by a step that stops. -/
theorem run_invariant {Inv : State → Prop} (keep : ∀ s s', Inv s → step s = .next s' → Inv s')
    (n : Nat) {s s' : State} (h0 : Inv s) (h : Sys2Proof.core.run n s = .next s') : Inv s' := by
  induction n generalizing s with
  | zero => cases h; exact h0
  | succ n ih =>
    simp only [Host.Core.run] at h
    split at h
    · rename_i s1 h1; exact ih (keep s s1 h0 h1) h
    · cases h
    · cases h

end Sys2Proof.Machine
end

