-- ==== Sys2Proof/Tests/Slice0.lean ====
section
/-! SUPPORT. Tests on fixed values, each expected result taken from spec/95_test_vectors.md or worked out
by hand from a rule, and one witness for the hypotheses of every statement. -/

namespace Sys2Proof.Tests

open Machine

/-! Helpers -/

/-- Hex bytes as events, then a Flush: the notation of 95_test_vectors.md. -/
def wire (bs : List Byte) : List Event := bs.map Event.byte ++ [.flush]

/-- The next state's observation: OUT, CNT, STATUS, FAULTHDR; none where the step does not answer one. -/
def seen (o : Host.Outcome State Fault Refusal) : Option (List Event × Word × Byte × Word) :=
  match o with
  | .next s => some (s.out, s.cnt, s.status, s.faultHdr)
  | _ => none

/-- What is left of the inputs: the port and the position. -/
def left (o : Host.Outcome State Fault Refusal) : Option (List Beat × Nat × Phase) :=
  match o with
  | .next s => some (s.port, s.pos, s.phase)
  | _ => none

/-- The reset state with `c` in CNT. -/
def atCnt (c : Word) : State := { State.reset with cnt := c }

/-- The reset state with beats on the port. -/
def withPort (bs : List Beat) : State := { State.reset with port := bs }

/-- The same at the byte-serial level. -/
def serialPort (bs : List Beat) : State := { withPort bs with level := .byteSerial }

/-- The state after RESERVED_NONZERO on 0x02000100, with a TLM waiting (95_test_vectors.md P3). -/
def faultedP3 : State :=
  { State.reset with cnt := 1, status := 0x05, faultHdr := 0x02000100, port := encode (.tlm 6) }

/-- The same with reset asserted in the next step. -/
def resetP3 : State := { faultedP3 with pins := [⟨true, true⟩] }

/-- Wires of a sink that never accepts. -/
def deafSink : Pins := { reset := false, sinkReady := false }

/-- A TLM 3500 in progress with 7 bytes sent (95_test_vectors.md P6). -/
def midP6 : State :=
  { State.reset with
    level := .byteSerial, cnt := 1, phase := .payload, idx := 2, acc := 0x09, ltype := 0x01, llen := 8
    lpay := [0x00, 0x00, 0x00, 0x00, 0xAC, 0x0D, 0x00, 0x00]
    out := [0xAA, 0x55, 0x01, 0x00, 0x08, 0x00, 0x00].map Event.byte }

/-- A frame in progress at a phase, latched as FRAME 0x07 with one byte to come. -/
def midFrame (ph : Phase) : State :=
  { State.reset with
    level := .byteSerial, phase := ph, ltype := 0x07, llen := 1, port := [.byte 0x5A] }

/-! WellFormed refuses an ill-formed term, and only it (30_encoding.md R72). -/

/-- Both sides of the bound of 65535 bytes. -/
theorem payload_bound :
    (List.replicate 65535 (0 : Byte)).length ≤ 65535 ∧
    ¬ (List.replicate 65536 (0 : Byte)).length ≤ 65535 := by
  rw [List.length_replicate, List.length_replicate]; omega

theorem test_wf_refuses_65536 (p : List Byte) (h : p.length = 65536) : (Instr.frame 0 p).wf = false := by
  simp [Instr.wf, PayloadFits, Config.maxPayload, h]

theorem test_wf_takes_65535 (p : List Byte) (h : p.length = 65535) : (Instr.frame 0 p).wf = true := by
  simp [Instr.wf, PayloadFits, Config.maxPayload, h]

theorem test_wf_takes_tlm : (Instr.tlm 0x80000000).wf = true := by decide

/-! Decoding of words written out from 30_encoding.md R61: op, type, len. -/

theorem test_frame_word :
    fetch [.word (0b00000001#8 ++ 0b01111110#8 ++ 0b0000000000000011#16), .byte 0, .byte 1, .byte 2,
      .word 7] = .command (.frame 0x7E [0, 1, 2]) [.word 7] := by decide

theorem test_tlm_word :
    fetch [.word (0b00000010#8 ++ 0b00000000#8 ++ 0b0000000000000000#16), .word 0xFFFFFFFF, .byte 9] =
      .command (.tlm 0xFFFFFFFF) [.byte 9] := by decide

theorem test_faulting_words :
    fetch [.word 0x02010000, .word 5] = .faulty .reservedNonzero 0x02010000 [.word 5] ∧
    fetch [.word 0x03000000] = .faulty .illegalOp 0x03000000 [] ∧
    fetch [.word 0xFF000000] = .faulty .illegalOp 0xFF000000 [] := by decide

theorem test_pending_words :
    fetch [.word 0x01000002, .byte 1] = .dataPending ∧ fetch [.word 0x02000000] = .dataPending ∧
    fetch [] = .noHeader := by decide

theorem test_encode :
    encode (.frame 0x7E [0, 1, 2]) = [.word 0x017E0003, .byte 0, .byte 1, .byte 2] ∧
    encode (.tlm 0xFFFFFFF4) = [.word 0x02000000, .word 0xFFFFFFF4] := by decide

theorem test_table_words :
    decodeTableWord 32 0x01070000 = some (.frame 0x07 []) ∧
    decodeTableWord 32 0x01070002 = some (.frame 0x07 [0, 0]) ∧
    decodeTableWord 64 0x00000DAC02000000 = some (.tlm 3500) ∧
    decodeTableWord 48 0x55AA01070002 = some (.frame 0x07 [0xAA, 0x55]) ∧
    decodeTableWord 32 0x02000001 = none := by decide

/-! Sub-blocks: 95_test_vectors.md 2.1, 2.2, 2.5. -/

theorem test_lenEncode :
    lenEncode 0 = (0x00, 0x00) ∧ lenEncode 255 = (0x00, 0xFF) ∧ lenEncode 256 = (0x01, 0x00) ∧
    lenEncode 0x1234 = (0x12, 0x34) ∧ lenEncode 65535 = (0xFF, 0xFF) := by decide

theorem test_xorFold :
    xorFold [] = 0x00 ∧ xorFold [0x10, 0x01, 0x02] = 0x13 ∧
    xorFold [0x01, 0x00, 0x08, 0, 0, 0, 0, 0xAC, 0x0D, 0, 0] = 0xA8 := by decide

theorem test_serialize :
    serialize { counter := 0x12345678, weightG := -3500 } =
      [0x78, 0x56, 0x34, 0x12, 0x54, 0xF2, 0xFF, 0xFF] ∧
    serialize { counter := 0, weightG := -2147483648 } = [0, 0, 0, 0, 0x00, 0x00, 0x00, 0x80] := by
  decide

theorem test_weight : weightOf 0xFFFFFFFF = -1 ∧ weightOf 0x00000DAC = 3500 := by decide

/-! The commands: 95_test_vectors.md 2.4 and 2.6. -/

theorem test_frame_type_one :
    seen (exec (.frame 0x01 [0xAA, 0x55]) State.reset) =
      some (wire [0xAA, 0x55, 0x01, 0x00, 0x02, 0xAA, 0x55, 0xFC], 0, 0, 0) := by decide

theorem test_frame_empty :
    seen (exec (.frame 0xFF []) State.reset) =
      some (wire [0xAA, 0x55, 0xFF, 0x00, 0x00, 0xFF], 0, 0, 0) := by decide

/-- 90_conflicts.md C1: the checksum is 0xA8, not the source's 0xA5. -/
theorem test_tlm_scenario :
    seen (exec (.tlm 3500) State.reset) =
      some (wire [0xAA, 0x55, 0x01, 0x00, 0x08, 0, 0, 0, 0, 0xAC, 0x0D, 0, 0, 0xA8], 1, 0, 0) := by
  decide

theorem test_tlm_counter_wraps :
    seen (exec (.tlm 0) (atCnt 0xFFFFFFFF)) =
      some (wire [0xAA, 0x55, 0x01, 0x00, 0x08, 0xFF, 0xFF, 0xFF, 0xFF, 0, 0, 0, 0, 0x09], 0, 0, 0) := by
  decide

/-! One step: 95_test_vectors.md programs. -/

theorem test_step_runs_table_frame :
    seen (step (State.reset.withFetchWord 32 0x01010000)) =
      some (wire [0xAA, 0x55, 0x01, 0x00, 0x00, 0x01], 0, 0, 0) := by decide

theorem test_step_runs_table_tlm :
    seen (step (State.reset.withFetchWord 32 0x02000000)) =
      some (wire [0xAA, 0x55, 0x01, 0x00, 0x08, 0, 0, 0, 0, 0, 0, 0, 0, 0x09], 1, 0, 0) := by decide

theorem test_step_illegal_op :
    seen (State.reset.runLine (.command (.raw 0x00000000))) = some ([], 0, 0x03, 0) := by decide

theorem test_step_reserved_nonzero :
    seen (State.reset.runLine (.command (.raw 0x02000100))) =
      some ([], 0, 0x05, 0x02000100) := by decide

theorem test_step_fault_state_holds : step faultedP3 = .next faultedP3 := by rfl

theorem test_step_reset_recovers :
    seen (faultedP3.runLine .reset) = some ([], 0, 0, 0) ∧
    left (faultedP3.runLine .reset) = some (encode (.tlm 6), 0, .idle) := by decide

theorem test_present_reset : faultedP3.present .reset = .next resetP3 := rfl

/-- 95_test_vectors.md 2.4: Frame(t, p) with 65536 bytes is refused, with no OUT; so is the run. -/
theorem test_lines_refuse_65536 (p : List Byte) (h : p.length = 65536) :
    runLines [.command (.instr (.frame 0x07 p)), .reset] State.reset = .refused .payloadTooLong := by
  simp [runLines, State.runLine, State.present, Instr.wf, PayloadFits, Config.maxPayload, h]

/-- 95_test_vectors.md Part 3: a command line in the fault state holds and the program stops there, with
that line unconsumed. -/
theorem test_lines_stop_at_a_hold :
    left (runLines [.command (.raw 0x00000000), .command (.instr (.tlm 7)), .command (.instr (.tlm 8))]
      State.reset) = some (encode (.tlm 7), 1, .idle) := by decide

/-- 95_test_vectors.md Part 3: a RESET line is applied when reached, even in the fault state. -/
theorem test_lines_reset_recovers :
    seen (runLines [.command (.raw 0x00000000), .reset, .command (.instr (.tlm 0))] State.reset) =
      some (wire [0xAA, 0x55, 0x01, 0x00, 0x08, 0, 0, 0, 0, 0, 0, 0, 0, 0x09], 1, 0, 0) := by decide

/-- 70_reset_and_hazards.md R178: a sink that never accepts, in mid-frame. -/
theorem test_step_deaf_sink_holds :
    step { midP6 with pinsAfter := deafSink } = .next { midP6 with pinsAfter := deafSink } := rfl

theorem test_step_mid_frame_reset :
    seen (step { midP6 with pins := [⟨true, true⟩] }) = some (midP6.out, 0, 0, 0) ∧
    left (step { midP6 with pins := [⟨true, true⟩] }) = some ([], 0, .idle) := by decide

theorem test_step_serial_start :
    left (step (serialPort (encode (.frame 0x07 [0x5A])))) = some ([.byte 0x5A], 1, .magic0) ∧
    left (step (serialPort (encode (.tlm 1)))) = some ([], 1, .magic0) := by decide

theorem test_step_serial_payload :
    left (step (midFrame .payload)) = some ([], 0, .chk) ∧
    seen (step (midFrame .payload)) = some ([.byte 0x5A], 0, 0, 0) := by decide

/-! The receiver: 95_test_vectors.md 2.7. -/

theorem test_parseFrame :
    parseFrame [0xAA, 0x55, 0x01, 0x00, 0x08, 0, 0, 0, 0, 0xAD, 0x0D, 0, 0, 0xA8] = .badChecksum ∧
    parseFrame [0x55, 0xAA, 0x01, 0x00, 0x00, 0x01] = .badMagic ∧
    parseFrame [0xAA, 0x55, 0x01, 0x00, 0x02, 0x10] = .incomplete ∧
    parseFrame [0xAA, 0x55, 0x01, 0x00, 0x00, 0x01, 0xF9] = .ok 0x01 [] [0xF9] := by decide

/-! Witnesses: for every statement with hypotheses, a state and operands that meet them; for a statement
of several clauses, one for each clause at a boundary of its range. -/

/-- EveryHeaderDecodesByOpThenReservedBits, each clause at both ends. -/
theorem witness_header_clauses :
    (0x01000000#32).toNat / 2 ^ 24 = 1 ∧ (0x01FFFFFF#32).toNat / 2 ^ 24 = 1 ∧
    (0x02000000#32).toNat / 2 ^ 24 = 2 ∧ (0x02000000#32).toNat % 2 ^ 24 = 0 ∧
    (0x02FFFFFF#32).toNat / 2 ^ 24 = 2 ∧ (0x02000001#32).toNat % 2 ^ 24 ≠ 0 ∧
    (0x00FFFFFF#32).toNat / 2 ^ 24 ≠ 1 ∧ (0x03000000#32).toNat / 2 ^ 24 ≠ 2 := by decide

/-- DecodeOfEncodeIsTheCommand. -/
theorem witness_wellFormed : (Instr.frame 0xFF [0xAA]).WellFormed ∧ (Instr.tlm 0x80000000).WellFormed := by
  decide

/-- DecodedCommandsAreWellFormedEncodings, HeaderAloneTellsCommandLength and the second clause of
OverLongFrameIsRefusedAndUnencodable: each kind of header. -/
theorem witness_fetch :
    fetch [.word 0x01000000, .byte 3] = .command (.frame 0 []) [.byte 3] ∧
    fetch [.word 0x02000000, .word 0] = .command (.tlm 0) [] ∧
    decodeHeader 0x02000001 = .fault .reservedNonzero := by decide

/-- AbstractFormEncodesOrIsRefused, OverLongFrameIsRefusedAndUnencodable and
PresentingAnOverLongFrameRefusesTheRun, at both sides of the bound. -/
theorem witness_payload_bound :
    (List.replicate 65535 (0 : Byte)).length ≤ 65535 ∧
    ¬ (List.replicate 65536 (0 : Byte)).length ≤ 65535 := payload_bound

/-- LengthEncoderIsInvertible's second clause. -/
theorem witness_lenEncode_eq : lenEncode 65535 = lenEncode 65535 := rfl

/-- ChecksumLaws (a) and (d): a permutation that moves something, a first and a last byte changed, two
places. -/
theorem witness_checksum :
    List.Perm [0x01#8, 0x02#8] [0x02#8, 0x01#8] ∧
    (0 < [0x01#8, 0x02#8].length ∧ [0x01#8, 0x02#8][0]? ≠ some 0x03#8) ∧
    (1 < [0x01#8, 0x02#8].length ∧ [0x01#8, 0x02#8][1]? ≠ some 0x03#8 ∧ 0 ≠ 1) := by decide

/-- FrameLayout, ParseFrameRecoversTheFrame, FrameAppendsItsFrameAndFlush: the empty payload; with
witness_payload_bound the longest. -/
theorem witness_empty_payload : ([] : List Byte).length ≤ 65535 := by decide

/-- ReceiverRecoversEveryFrame. -/
theorem witness_frames : ∀ f ∈ [(0x01#8, [0xAA#8, 0x55#8]), (0xFF#8, [])], f.2.length ≤ 65535 := by decide

/-- TelemetryFrameViews and ParseTelemetryRecoversTheRecord, at both ends of the s32 range. -/
theorem witness_s32 : IsS32 (-2147483648) ∧ IsS32 2147483647 ∧ IsS32 0 := by decide

/-- FrameAppendsItsFrameAndFlush, TlmFramesTheRecordAndAdvancesCnt,
AppendedEventsDependOnOperandsAlone. -/
theorem witness_enabled :
    State.reset.faulted = false ∧ State.reset.phase = .idle ∧ State.reset.enabled = true ∧
    { State.reset with acc := 3, pos := 9 }.enabled = true ∧
    State.reset.cnt = { State.reset with acc := 3, pos := 9 }.cnt := by decide

/-- AppendedEventsDependOnOperandsAlone: both commands complete. -/
theorem witness_both_complete :
    (seen (exec (.frame 0x01 []) State.reset)).isSome = true ∧
    (seen (exec (.tlm 5) State.reset)).isSome = true := by decide

/-- CommandsHoldInTheFaultState, FaultStateHoldsUntilReset. -/
theorem witness_faulted :
    faultedP3.faulted = true ∧ faultedP3.pin.reset = false ∧ (Instr.tlm 6).WellFormed := by decide

/-- StepRunsThePresentedCommand. -/
theorem witness_step_runs :
    (withPort (encode (.tlm 5))).pin.reset = false ∧ (withPort (encode (.tlm 5))).pin.sinkReady = true ∧
    (withPort (encode (.tlm 5))).faulted = false ∧ (withPort (encode (.tlm 5))).phase = .idle ∧
    (withPort (encode (.tlm 5))).level = .transaction ∧
    fetch (withPort (encode (.tlm 5))).port = .command (.tlm 5) [] := by decide

/-- FaultingHeaderEntersTheFaultState, at both levels and with both causes; OnlyTheTwoHeaderKindsFault
is met by the step this state takes. -/
theorem witness_faulting_header :
    (withPort [.word 0]).pin.reset = false ∧ (withPort [.word 0]).faulted = false ∧
    (withPort [.word 0]).phase = .idle ∧ decodeHeader 0 = .fault .illegalOp ∧
    (serialPort [.word 0x02000001]).faulted = false ∧
    decodeHeader 0x02000001 = .fault .reservedNonzero := by decide

/-- OnlyTheTwoHeaderKindsFault: a step from outside the fault state into it. -/
theorem witness_enters_fault :
    ∃ u, step (withPort [.word 0x02000001]) = .next u ∧ u.faulted = true := ⟨_, rfl, by decide⟩

/-- ResetSetsTheResetValuesAndKeepsOut, in the fault state with a header on the port and in mid-frame. -/
theorem witness_reset_pin :
    resetP3.pin.reset = true ∧
    { midP6 with pins := [⟨true, false⟩] }.pin.reset = true ∧
    resetP3.port = [.word 0x02000000, .word 6] := by decide

/-- FirstTlmAfterResetCarriesZero, with no FRAME before the TLM and with one. -/
theorem witness_reset_then_tlm :
    let fs : List (Byte × List Byte) := [(0x7E, [0x00])]
    let s := { resetP3 with port := encode (.frame 0x7E [0x00]) ++ encode (.tlm 6) }
    resetP3.pins = [⟨true, true⟩] ∧ resetP3.pinsAfter = ⟨false, true⟩ ∧ resetP3.level = .transaction ∧
    resetP3.port = ([] : List (Byte × List Byte)).flatMap (fun f => encode (.frame f.1 f.2)) ++
      encode (.tlm 6) ++ [] ∧
    (∀ f ∈ fs, f.2.length ≤ 65535) ∧
    s.port = fs.flatMap (fun f => encode (.frame f.1 f.2)) ++ encode (.tlm 6) ++ [] := by decide

/-- OnlyResetLeavesTheFaultState: a step out of the fault state. -/
theorem witness_leaves_fault :
    ∃ u, step resetP3 = .next u ∧ u.faulted = false := ⟨_, rfl, by decide⟩

/-- OutOnlyGrows, OnlyTlmAndResetWriteCnt: a step that answers a next state and changes CNT by a TLM. -/
theorem witness_cnt_by_tlm :
    ∃ u, step (withPort (encode (.tlm 5))) = .next u ∧ u.cnt ≠ (withPort (encode (.tlm 5))).cnt :=
  ⟨_, rfl, by decide⟩

/-- OnlyTlmAndResetWriteCnt: a step that changes CNT by reset. -/
theorem witness_cnt_by_reset :
    ∃ u, step resetP3 = .next u ∧ u.cnt ≠ resetP3.cnt :=
  ⟨_, rfl, by decide⟩

/-- EveryStepKeepsStatusSound: a sound state in the fault state, with a step. -/
theorem witness_statusInv : faultedP3.StatusInv ∧ ∃ u, step faultedP3 = .next u := by
  refine ⟨⟨by decide, by decide, by decide, by decide, ?_, by decide⟩, _, rfl⟩
  intro k; cases k <;> decide

/-- EveryStepKeepsTheFramerSound, EveryStepKeepsOutFramed: a frame in progress, with a step that does not
cut it. -/
theorem witness_framerInv :
    midP6.FramerInv ∧ midP6.WireInv ∧ ¬ midP6.cutsFrame ∧ ∃ u, step midP6 = .next u := by
  refine ⟨⟨fun _ => by decide, ?_⟩, ⟨[], framed_nil, by decide⟩, ?_, _, rfl⟩
  · show 2 < 8 ∧ (8 = 2 ∨ 8 = 8)
    decide
  · rintro ⟨h, -⟩
    exact absurd h (by decide)

/-- TransactionStepsNeverCutAFrame. -/
theorem witness_transaction :
    resetP3.level = .transaction ∧ resetP3.phase = .idle ∧
    Framed resetP3.out ∧ ∃ u, step resetP3 = .next u :=
  ⟨by decide, by decide, framed_nil, _, rfl⟩

/-- IdleFramerRegistersAreNeverRead: two states that differ, with a step. -/
theorem witness_agree :
    (withPort (encode (.tlm 5))).Agree { withPort (encode (.tlm 5)) with acc := 3, lpay := [7] } ∧
    withPort (encode (.tlm 5)) ≠ { withPort (encode (.tlm 5)) with acc := 3, lpay := [7] } ∧
    ∃ u, step (withPort (encode (.tlm 5))) = .next u :=
  ⟨⟨rfl, rfl, rfl, rfl, rfl, rfl, rfl, rfl, rfl, rfl, fun h => absurd rfl h⟩, by decide, _, rfl⟩

/-- StartingACommandLatches, ByteSerialFrameAgreesWithTheTransaction,
ByteSerialTlmAgreesWithTheTransaction, with a stall of the sink. -/
theorem witness_serial_start :
    let s := { serialPort (encode (.frame 0x07 [])) with pins := [⟨false, false⟩] }
    s.pin.reset = false ∧ s.faulted = false ∧ s.phase = .idle ∧ s.level = .byteSerial ∧
    (∀ p ∈ s.pins, p.reset = false) ∧ s.pinsAfter.reset = false ∧ s.pinsAfter.sinkReady = true ∧
    s.port = [.word 0x01070000] ∧ s.port = encode (.frame 0x07 []) ∧
    decodeHeader 0x01070000 = .frame 0x07 0 ∧
    (serialPort (encode (.tlm 1))).port = [.word 0x02000000, .word 1] := by decide

/-- TransitionTable, NoCommandStartsDuringAFrame: a state in each phase, the sink accepting and not; the
PAYLOAD row with the byte latched, on the port and missing. -/
theorem witness_phases :
    (∀ ph ∈ [Phase.magic0, .magic1, .type, .lenHi, .lenLo, .payload, .chk, .flush],
      (midFrame ph).pin.reset = false ∧ (midFrame ph).faulted = false ∧
      (midFrame ph).pin.sinkReady = true ∧ (midFrame ph).phase ≠ .idle) ∧
    { midFrame .chk with pins := [⟨false, false⟩] }.pin.sinkReady = false ∧
    midP6.lpay[midP6.idx.toNat]? = some 0x00 ∧
    (midFrame .payload).lpay[(midFrame .payload).idx.toNat]? = none ∧
    (midFrame .payload).port = [.byte 0x5A] ∧
    { midFrame .payload with port := [] }.lpay[{ midFrame .payload with port := [] }.idx.toNat]? = none := by
  decide

/-- TransitionTable: the PAYLOAD row's wait, with nothing on the port. -/
theorem witness_no_byte : ∀ b rest, { midFrame .payload with port := [] }.port ≠ .byte b :: rest := by
  intro b rest h; cases h

/-- SinkHoldChangesNothing: both alternatives. -/
theorem witness_sink_hold :
    { midFrame .type with pins := [⟨false, false⟩] }.pin.sinkReady = false ∧
    { midFrame .type with pins := [⟨false, false⟩] }.phase ≠ .idle ∧
    { withPort (encode (.tlm 1)) with pins := [⟨false, false⟩] }.pin.sinkReady = false ∧
    { withPort (encode (.tlm 1)) with pins := [⟨false, false⟩] }.level = .transaction ∧
    fetch { withPort (encode (.tlm 1)) with pins := [⟨false, false⟩] }.port = .command (.tlm 1) [] := by
  decide

/-- SinkThatNeverAcceptsHoldsForEver: both alternatives, with a stall listed and without end. -/
theorem witness_never_accepts :
    let s := { midFrame .type with pins := [deafSink], pinsAfter := deafSink }
    let u := { withPort (encode (.tlm 1)) with pinsAfter := deafSink }
    (∀ p ∈ s.pins, p.reset = false) ∧ s.pinsAfter.reset = false ∧
    (∀ p ∈ s.pins, p.sinkReady = false) ∧ s.pinsAfter.sinkReady = false ∧ s.faulted = false ∧
    s.phase ≠ .idle ∧ u.pins = [] ∧ u.pinsAfter.reset = false ∧ u.pinsAfter.sinkReady = false ∧
    u.faulted = false ∧ u.phase = .idle ∧ u.level = .transaction ∧
    fetch u.port = .command (.tlm 1) [] := by decide

/-- MissingInputHolds: each of its three cases. -/
theorem witness_missing_input :
    State.reset.pin.reset = false ∧ State.reset.phase = .idle ∧ fetch State.reset.port = .noHeader ∧
    fetch (withPort [.word 0x01000001]).port = .dataPending ∧
    (withPort [.word 0x01000001]).level = .transaction ∧
    (serialPort [.word 0x02000000]).level = .byteSerial ∧
    (serialPort [.word 0x02000000]).port = .word 0x02000000 :: [] := by decide

/-- MidFrameResetTruncatesAndStartsAgain: a TLM in mid-frame (95_test_vectors.md P6), and a FRAME with a
data byte left on the port. -/
theorem witness_mid_frame_reset :
    let s := { midP6 with pins := [⟨true, true⟩], port := encode (.tlm 1) }
    let t := { midFrame .payload with pins := [⟨true, false⟩], port := .byte 0x5A :: encode (.tlm 1) }
    s.pins = [⟨true, true⟩] ∧ s.pinsAfter = ⟨false, true⟩ ∧ t.pins = [⟨true, false⟩] ∧
    t.pinsAfter = ⟨false, true⟩ ∧
    s.level = .byteSerial ∧ s.phase ≠ .idle ∧ s.port = ([] : List Byte).map Beat.byte ++ encode (.tlm 1) ∧
    t.level = .byteSerial ∧ t.phase ≠ .idle ∧ t.port = [0x5A#8].map Beat.byte ++ encode (.tlm 1) := by
  decide

/-- CommandsRunInPortOrder, TelemetryFramesCarryConsecutiveCounters: a FRAME between two TLMs. -/
theorem witness_commands :
    let is : List Instr := [.tlm 1, .frame 0x7E [0x00], .tlm 12]
    (∀ i ∈ is, i.WellFormed) ∧ (withPort (is.flatMap encode)).level = .transaction ∧
    (withPort (is.flatMap encode)).faulted = false ∧ (withPort (is.flatMap encode)).phase = .idle ∧
    (withPort (is.flatMap encode)).pins = [] ∧
    (withPort (is.flatMap encode)).pinsAfter = ⟨false, true⟩ ∧
    (withPort (is.flatMap encode)).port = is.flatMap encode ++ [] ∧
    is[2]? = some (.tlm 12) ∧ is[1]? = some (.frame 0x7E [0x00]) := by decide

/-- CauseReadsItsCodeOrFaults: each code at its boundary, the reserved ones 3 and 7. -/
theorem witness_causes :
    causeField State.reset.status = 0 ∧ causeField 0x03 = causeCode .illegalOp ∧
    causeField 0x05 = causeCode .reservedNonzero ∧ 3 ≤ (causeField 0x07).toNat ∧
    3 ≤ (causeField 0x0F).toNat := by decide

/-- BlocksAreIndependent: a step of one of two blocks, and a list that differs in the other. -/
theorem witness_blocks :
    (∃ after, stepAt 0 [withPort (encode (.tlm 5)), State.reset] = .next after) ∧
    [withPort (encode (.tlm 5)), State.reset][0]? = [withPort (encode (.tlm 5)), atCnt 9][0]? ∧
    (1 : Nat) ≠ 0 := ⟨⟨_, rfl⟩, rfl, by decide⟩

end Sys2Proof.Tests
end

/-! Totality of the step (00_scope.md R10; 30_encoding.md R63; 60_exceptions.md R157): only a FRAME term
that no port carries is refused, and everything else is answered with a next state. -/

namespace Sys2Proof.Machine

/-- A FRAME whose payload fits is never refused, enabled or not (60_exceptions.md R153, R157). -/
theorem execFrame_eq_next (t : Byte) {p : List Byte} (hp : PayloadFits p) (s : State) :
    execFrame t p s = .next (if s.enabled then s.sendFrame t p else s) := by
  unfold execFrame
  rw [if_pos hp]
  cases s.enabled <;> rfl

/-- TLM is never refused, enabled or not (60_exceptions.md R153). -/
theorem execTlm_eq_next (w : Word) (s : State) :
    execTlm w s = .next (if s.enabled then
      s.bumpCounter.sendFrame Config.typeTelemetry (serialize (s.record w)) else s) := by
  unfold execTlm
  cases s.enabled <;> rfl

/-- Every well-formed command is answered with a next state (30_encoding.md R72). -/
theorem exec_answers_next {i : Instr} (hi : i.WellFormed) (s : State) : ∃ u, exec i s = .next u := by
  cases i with
  | frame t p => exact ⟨_, execFrame_eq_next t (of_decide_eq_true hi) s⟩
  | tlm w => exact ⟨_, execTlm_eq_next w s⟩

/-- A command taken off the port is well-formed: no port presents an over-long FRAME (60_exceptions.md
R157). -/
theorem wellFormed_of_nextAction_execute {s : State} {i : Instr} {rest : List Beat}
    (h : s.nextAction = .execute i rest) : i.WellFormed := by
  rcases nextAction_cases s with ⟨ha, -⟩ | ⟨_, ha, -⟩ | ⟨_, _, _, ha, -⟩ |
    ⟨_, _, _, ha, -, -, -, -, hp, -⟩ | ⟨_, _, ha, -⟩ | ⟨_, _, _, ha, -⟩ | ⟨_, _, ha, -⟩ | ⟨ha, -⟩
  all_goals cases h.symm.trans ha
  · exact decide_eq_true hp
  · rfl

/-- Only an executed command that is not well-formed can keep an action from a next state. -/
theorem perform_answers_next {a : Action} (s : State)
    (h : ∀ i rest, a = .execute i rest → i.WellFormed) : ∃ u, perform a s = .next u := by
  cases a with
  | execute i rest => exact exec_answers_next (h i rest rfl) _
  | reset | hold | takeFault | startFrame | startTlm | transfer => exact ⟨_, rfl⟩

/-- Settles O30: every action but an executed command answers a next state, and what the port presents
is well-formed. -/
theorem everyStepAnswersANextState : Obligations.EveryStepAnswersANextState :=
  fun s => perform_answers_next s.tick fun _ _ => wellFormed_of_nextAction_execute

end Sys2Proof.Machine

/-! What a row of the transfer table does to the fields it does not speak of (42_packet_framer.md
R107). -/

namespace Sys2Proof.Machine

section Rows

variable (s : State) (b : Byte)

@[simp] theorem State.payloadRow_cnt : (s.payloadRow b).cnt = s.cnt := by
  simp [State.payloadRow]

@[simp] theorem State.payloadRow_status : (s.payloadRow b).status = s.status := by
  simp [State.payloadRow]

@[simp] theorem State.payloadRow_faultHdr : (s.payloadRow b).faultHdr = s.faultHdr := by
  simp [State.payloadRow]

@[simp] theorem State.payloadRow_out : (s.payloadRow b).out = s.out ++ [.byte b] := by
  simp [State.payloadRow]

/-- Of the architectural state a row writes OUT alone, whether PAYLOAD finds its byte or not. -/
theorem State.transfer_keeps_registers :
    s.transfer.cnt = s.cnt ∧ s.transfer.status = s.status ∧ s.transfer.faultHdr = s.faultHdr := by
  unfold State.transfer
  cases s.phase with
  | payload => cases s.payloadByte <;> simp
  | idle | magic0 | magic1 | type | lenHi | lenLo | chk | flush => exact ⟨rfl, rfl, rfl⟩

@[simp] theorem State.transfer_cnt : s.transfer.cnt = s.cnt := by
  obtain ⟨h, -⟩ := s.transfer_keeps_registers
  exact h

@[simp] theorem State.transfer_status : s.transfer.status = s.status := by
  obtain ⟨-, h, -⟩ := s.transfer_keeps_registers
  exact h

@[simp] theorem State.transfer_faultHdr : s.transfer.faultHdr = s.faultHdr := by
  obtain ⟨-, -, h⟩ := s.transfer_keeps_registers
  exact h

/-- A row appends to OUT, one event or none. -/
theorem State.transfer_out_grows : s.out <+: s.transfer.out := by
  unfold State.transfer
  cases s.phase with
  | payload => cases s.payloadByte <;> simp
  | idle => simp
  | magic0 | magic1 | type | lenHi | lenLo | chk | flush => exact ⟨_, rfl⟩

end Rows

/-- Settles O28: only a command run whole and a row write OUT, and both append to it. -/
theorem outOnlyGrows : Obligations.OutOnlyGrows := by
  intro s u h
  rcases step_cases h with ⟨-, rfl⟩ | ⟨-, rfl⟩ | ⟨k, hdr, rest, -, -, -, -, rfl⟩ |
    ⟨t, p, rest, -, -, -, -, -, rfl⟩ | ⟨w, rest, -, -, -, -, rfl⟩ | ⟨t, n, rest, -, -, -, -, rfl⟩ |
    ⟨w, rest, -, -, -, -, rfl⟩ | ⟨-, -, -, -, -, rfl⟩
  · simp
  · simp
  · simp
  · simp
  · simp
  · simp [State.startFrame]
  · simp [State.startTlm]
  · exact s.tick.transfer_out_grows

/-- Settles O29: a reset, a TLM run whole and a TLM that starts are the steps that write CNT. -/
theorem onlyTlmAndResetWriteCnt : Obligations.OnlyTlmAndResetWriteCnt := by
  intro s u h hc
  rcases step_cases h with ⟨hr, rfl⟩ | ⟨-, rfl⟩ | ⟨k, hdr, rest, -, -, -, -, rfl⟩ |
    ⟨t, p, rest, -, -, -, -, -, rfl⟩ | ⟨w, rest, hr, -, -, hq, rfl⟩ | ⟨t, n, rest, -, -, -, -, rfl⟩ |
    ⟨w, rest, hr, -, -, hq, rfl⟩ | ⟨-, -, -, -, -, rfl⟩
  · exact .inl ⟨hr, rfl⟩
  · exact absurd rfl hc
  · exact absurd rfl hc
  · simp at hc
  · exact .inr ⟨hr, by simp, w, rest, hq, by simp⟩
  · exact absurd rfl hc
  · exact .inr ⟨hr, rfl, w, rest, hq, rfl⟩
  · simp at hc

/-! STATUS and FAULTHDR: who writes them, and what a read gives (10_state.md R22 to R27). -/

theorem not_faulted_of_enabled {s : State} (he : s.enabled = true) : ¬ s.faulted = true := by
  simp [(s.enabled_iff.mp he).1]

/-- STATUS and FAULTHDR are written by a reset and by a faulting header alone; any other step keeps
them, and in the fault state keeps PHASE too (10_state.md R27; 60_exceptions.md R153). -/
theorem step_status_cases {s u : State} (h : step s = .next u) :
    (u.status = 0 ∧ u.faultHdr = 0) ∨
    (∃ k hdr, decodeHeader hdr = .fault k ∧ u.status = makeStatus 1 (causeCode k) ∧
      u.faultHdr = hdr ∧ u.phase = .idle) ∨
    (u.status = s.status ∧ u.faultHdr = s.faultHdr ∧ (s.faulted = true → u.phase = s.phase)) := by
  rcases step_cases h with ⟨-, rfl⟩ | ⟨-, rfl⟩ | ⟨k, hdr, rest, -, he, -, hd, rfl⟩ |
    ⟨t, p, rest, -, he, -, -, -, rfl⟩ | ⟨w, rest, -, he, -, -, rfl⟩ | ⟨t, n, rest, -, he, -, -, rfl⟩ |
    ⟨w, rest, -, he, -, -, rfl⟩ | ⟨-, hf, -, -, -, rfl⟩
  · exact .inl ⟨rfl, rfl⟩
  · exact .inr (.inr ⟨rfl, rfl, fun _ => rfl⟩)
  · exact .inr (.inl ⟨k, hdr, hd, rfl, rfl, (s.enabled_iff.mp he).2⟩)
  · exact .inr (.inr ⟨by simp, by simp, fun hf => absurd hf (not_faulted_of_enabled he)⟩)
  · exact .inr (.inr ⟨by simp, by simp, fun hf => absurd hf (not_faulted_of_enabled he)⟩)
  · exact .inr (.inr ⟨rfl, rfl, fun hf => absurd hf (not_faulted_of_enabled he)⟩)
  · exact .inr (.inr ⟨rfl, rfl, fun hf => absurd hf (not_faulted_of_enabled he)⟩)
  · exact .inr (.inr ⟨by simp, by simp, fun hf' => absurd hf' (by simp [hf])⟩)

/-- No cause has the code of NONE. -/
theorem causeCode_ne_zero (k : Cause) : causeCode k ≠ 0 := by
  cases k <;> decide

theorem causeCode_injective : Function.Injective causeCode := by
  intro k k'
  cases k <;> cases k' <;> decide

theorem causeCode_toNat_le (k : Cause) : (causeCode k).toNat ≤ 2 := by
  cases k <;> decide

/-- Cleared STATUS and FAULTHDR are sound (70_reset_and_hazards.md R170). -/
theorem State.statusInv_of_cleared {u : State} (hs : u.status = 0) (hh : u.faultHdr = 0) :
    u.StatusInv := by
  unfold State.StatusInv
  rw [hs, hh]
  exact ⟨by decide, by decide, by decide, fun _ => rfl,
    fun k hk => absurd hk.symm (causeCode_ne_zero k), fun h => absurd h (by decide)⟩

/-- Fault entry leaves STATUS and FAULTHDR sound (60_exceptions.md R151, R155). -/
theorem State.statusInv_of_fault {u : State} {k : Cause} (hs : u.status = makeStatus 1 (causeCode k))
    (hd : decodeHeader u.faultHdr = .fault k) (hp : u.phase = .idle) : u.StatusInv := by
  unfold State.StatusInv
  rw [hs]
  simp only [statusReserved_makeStatus, faultBit_makeStatus, causeField_makeStatus]
  refine ⟨trivial, ?_, causeCode_toNat_le k, ?_, ?_, fun _ => hp⟩
  · exact iff_of_false (by decide) (causeCode_ne_zero k)
  · exact fun h => absurd h (by decide)
  · intro k' hk
    rw [← causeCode_injective hk, hd]

/-- Settles O31: what a reset or a fault entry writes is sound by itself, and every other step keeps what
the invariant speaks of. -/
theorem everyStepKeepsStatusSound : Obligations.EveryStepKeepsStatusSound := by
  intro s u hi h
  rcases step_status_cases h with ⟨hs, hh⟩ | ⟨k, hdr, hd, hs, rfl, hp⟩ | ⟨hs, hh, hp⟩
  · exact State.statusInv_of_cleared hs hh
  · exact State.statusInv_of_fault hs hd hp
  · unfold State.StatusInv at hi ⊢
    obtain ⟨hres, hnone, hle, hclear, hdec, hidle⟩ := hi
    rw [hs, hh]
    refine ⟨hres, hnone, hle, hclear, hdec, fun hf => ?_⟩
    rw [hp (by simp [State.faulted_eq, hf]), hidle hf]

/-- Settles O34: STATUS and FAULTHDR are clear, and in IDLE with OUT empty the other two say nothing. -/
theorem invariantsHoldAtReset : Obligations.InvariantsHoldAtReset :=
  ⟨State.statusInv_of_cleared rfl rfl, ⟨fun h => absurd rfl h, trivial⟩, [], framed_nil, rfl⟩

/-- The four bits the status output shows are FAULT and CAUSE. -/
theorem State.readStatus_toNat (s : State) :
    s.readStatus.toNat = (faultBit s.status).toNat + 2 * (causeField s.status).toNat := by
  have h : ∀ b : Byte, (b &&& 0x0F).toNat = (faultBit b).toNat + 2 * (causeField b).toNat := by decide
  exact h s.status

/-- Masking bits 7:4 leaves STATUS.CAUSE as it is. -/
@[simp] theorem State.causeField_readStatus (s : State) :
    causeField s.readStatus = causeField s.status := by
  have h : ∀ b : Byte, causeField (b &&& 0x0F) = causeField b := by decide
  exact h s.status

/-- Settles O48: STATUS is read with bits 7:4 masked. -/
theorem statusOutputReadsFaultAndCause : Obligations.StatusOutputReadsFaultAndCause :=
  fun s => ⟨s.readStatus_toNat, rfl, by simp [State.faulted_eq]⟩

theorem State.readCause_none {s : State} (h : causeField s.status = 0) : s.readCause = .ok none := by
  simp [State.readCause, h]

theorem State.readCause_some {s : State} {k : Cause} (h : causeField s.status = causeCode k) :
    s.readCause = .ok (some k) := by
  cases k <;> simp [State.readCause, h, causeCode]

theorem State.readCause_error_iff {s : State} :
    s.readCause = .error .reservedCause ↔ 3 ≤ (causeField s.status).toNat := by
  unfold State.readCause
  rw [State.causeField_readStatus]
  split
  · next h => simp [h]
  · next h => simp [h]
  · next h => simp [h]
  · next h0 h1 h2 =>
    simp only [imp_false] at h0 h1 h2
    simp only [true_iff]
    omega

/-- Settles O49: in a sound state CAUSE is at most 2, so a read of it is no fault. -/
theorem causeReadsItsCodeOrFaults : Obligations.CauseReadsItsCodeOrFaults := by
  refine fun s => ⟨State.readCause_none, fun _ => State.readCause_some,
    State.readCause_error_iff.mpr, fun ⟨_, _, hc, _⟩ he => ?_⟩
  have := State.readCause_error_iff.mp he
  omega

/-- Settles O50, by the definition of the state after power-on. -/
theorem resetValues : Obligations.ResetValues := ⟨rfl, rfl, rfl, rfl, rfl⟩

/-! The next command at the transaction level. -/

/-- Outside the fault state, in IDLE, at the transaction level and with the sink accepting, a whole
command on the port is the next action (10_state.md R29; log entry 13). -/
theorem nextAction_of_fetch_command {s : State} {i : Instr} {rest : List Beat}
    (hr : s.pin.reset = false) (hs : s.pin.sinkReady = true) (hf : s.faulted = false)
    (hp : s.phase = .idle) (hl : s.level = .transaction) (hi : fetch s.port = .command i rest) :
    s.nextAction = .execute i rest := by
  simp [State.nextAction, State.transactionAction, hr, hs, hf, hp, hl, hi]

/-- Settles O21: the command presented is the next action, and performing it is `exec`. -/
theorem stepRunsThePresentedCommand : Obligations.StepRunsThePresentedCommand := by
  intro s i rest hr hs hf hp hl hi
  unfold step
  rw [nextAction_of_fetch_command hr hs hf hp hl hi]
  rfl

/-! Several blocks (10_state.md R34). -/

/-- Everything a step of one block of several can do. -/
theorem stepAt_next {k : Nat} {blocks after : List State} (h : stepAt k blocks = .next after) :
    (blocks[k]? = none ∧ after = blocks) ∨
    (∃ s t, blocks[k]? = some s ∧ step s = .next t ∧ after = blocks.set k t) := by
  unfold stepAt at h
  split at h
  · rename_i hk; cases h; exact .inl ⟨hk, rfl⟩
  · rename_i s hk
    split at h
    · rename_i t ht; cases h; exact .inr ⟨s, t, hk, ht, rfl⟩
    · cases h
    · cases h

/-- A step of block `k` leaves every other block as it is (10_state.md R34). -/
theorem stepAt_getElem?_ne {k j : Nat} {blocks after : List State}
    (h : stepAt k blocks = .next after) (hj : j ≠ k) : after[j]? = blocks[j]? := by
  rcases stepAt_next h with ⟨-, rfl⟩ | ⟨s, t, -, -, rfl⟩
  · rfl
  · exact List.getElem?_set_ne hj.symm

/-- What a step of block `k` makes of it is the block's own step, whatever the list holds beside it. -/
theorem stepAt_getElem?_self {k : Nat} {blocks after : List State}
    (h : stepAt k blocks = .next after) :
    (blocks[k]? = none ∧ after[k]? = none) ∨
    (∃ s t, blocks[k]? = some s ∧ step s = .next t ∧ after[k]? = some t) := by
  rcases stepAt_next h with ⟨hk, rfl⟩ | ⟨s, t, hk, ht, rfl⟩
  · exact .inl ⟨hk, hk⟩
  · exact .inr ⟨s, t, hk, ht, List.getElem?_set_self (List.getElem?_eq_some_iff.mp hk).1⟩

/-- Settles O51: block `k` takes its own step, and nothing else in the list is read or written. -/
theorem blocksAreIndependent : Obligations.BlocksAreIndependent := by
  refine ⟨fun k j blocks after h hj => stepAt_getElem?_ne h hj, ?_⟩
  intro k blocks others after after' he h h'
  rcases stepAt_getElem?_self h with ⟨hk, ha⟩ | ⟨s, t, hk, ht, ha⟩ <;>
    rcases stepAt_getElem?_self h' with ⟨hk', ha'⟩ | ⟨s', t', hk', ht', ha'⟩
  · rw [ha, ha']
  · simp [← he, hk] at hk'
  · simp [← he, hk] at hk'
  · cases hk.symm.trans (he.trans hk')
    cases ht.symm.trans ht'
    rw [ha, ha']

end Sys2Proof.Machine

/-! States that agree (10_state.md R31, R32): they call for the same action, and every operation of a
step takes them to states that agree. -/

namespace Sys2Proof.Machine

/-- `s` with another count of free values drawn (log entry 5). -/
def State.withFreeCount (s : State) (c : Nat) : State := { s with freeCount := c }

section FreeCount

variable (s : State) (c : Nat)

@[simp] theorem State.withFreeCount_phase : (s.withFreeCount c).phase = s.phase := rfl

@[simp] theorem State.withFreeCount_lpay : (s.withFreeCount c).lpay = s.lpay := rfl

@[simp] theorem State.withFreeCount_idx : (s.withFreeCount c).idx = s.idx := rfl

@[simp] theorem State.payloadByte_withFreeCount :
    (s.withFreeCount c).payloadByte = s.payloadByte := rfl

@[simp] theorem State.nextAction_withFreeCount : (s.withFreeCount c).nextAction = s.nextAction := rfl

@[simp] theorem State.latchPayload_withFreeCount (b : Byte) :
    (s.withFreeCount c).latchPayload b = (s.latchPayload b).withFreeCount c := by
  unfold State.latchPayload
  rw [s.withFreeCount_lpay, s.withFreeCount_idx]
  cases s.lpay[s.idx.toNat]? <;> rfl

@[simp] theorem State.payloadRow_withFreeCount (b : Byte) :
    (s.withFreeCount c).payloadRow b = (s.payloadRow b).withFreeCount c := by
  unfold State.payloadRow
  rw [s.latchPayload_withFreeCount]
  rfl

/-- The count of free values alone tells no two states apart. -/
theorem State.agree_withFreeCount : s.Agree (s.withFreeCount c) :=
  ⟨rfl, rfl, rfl, rfl, rfl, rfl, rfl, rfl, rfl, rfl, fun _ => ⟨rfl, rfl, rfl, rfl, rfl⟩⟩

/-- A row never reads the count of free values, and only FLUSH draws from it, for registers that are
then in IDLE. -/
theorem State.transfer_agree_withFreeCount : s.transfer.Agree (s.withFreeCount c).transfer := by
  unfold State.transfer
  rw [s.withFreeCount_phase, s.payloadByte_withFreeCount]
  cases s.phase with
  | payload =>
    cases s.payloadByte with
    | none => exact s.agree_withFreeCount c
    | some b =>
      dsimp only
      rw [s.payloadRow_withFreeCount]
      exact (s.payloadRow b).agree_withFreeCount c
  | flush => exact ⟨rfl, rfl, rfl, rfl, rfl, rfl, rfl, rfl, rfl, rfl, fun h => absurd rfl h⟩
  | idle | magic0 | magic1 | type | lenHi | lenLo | chk => exact State.agree_withFreeCount _ c

end FreeCount

theorem State.transfer_of_idle {s : State} (h : s.phase = .idle) : s.transfer = s := by
  simp [State.transfer, h]

namespace State.Agree

variable {s u : State}

theorem cnt_eq (h : s.Agree u) : s.cnt = u.cnt := by
  obtain ⟨h, -⟩ := h
  exact h

theorem phase_eq (h : s.Agree u) : s.phase = u.phase := by
  obtain ⟨-, -, -, -, h, -⟩ := h
  exact h

theorem port_eq (h : s.Agree u) : s.port = u.port := by
  obtain ⟨-, -, -, -, -, h, -⟩ := h
  exact h

theorem level_eq (h : s.Agree u) : s.level = u.level := by
  obtain ⟨-, -, -, -, -, -, -, -, -, h, -⟩ := h
  exact h

theorem faulted_eq (h : s.Agree u) : s.faulted = u.faulted := by
  obtain ⟨-, h, -⟩ := h
  exact State.faulted_congr h

theorem enabled_eq (h : s.Agree u) : s.enabled = u.enabled := by
  unfold State.enabled
  rw [h.faulted_eq, h.phase_eq]

theorem record_eq (h : s.Agree u) (w : Word) : s.record w = u.record w := by
  unfold State.record
  rw [h.cnt_eq]

theorem pin_eq (h : s.Agree u) : s.pin = u.pin := by
  obtain ⟨-, -, -, -, -, -, hp, ha, -⟩ := h
  unfold State.pin
  rw [hp, ha]

/-- While a frame is in progress states that agree are the same but for the count of free values. -/
theorem eq_withFreeCount (h : s.Agree u) (hp : s.phase ≠ .idle) :
    u = s.withFreeCount u.freeCount := by
  cases u
  obtain ⟨rfl, rfl, rfl, rfl, rfl, rfl, rfl, rfl, rfl, rfl, hl⟩ := h
  obtain ⟨rfl, rfl, rfl, rfl, rfl⟩ := hl hp
  rfl

/-- States that agree call for the same action: what is taken in IDLE is decided without the five
registers. -/
theorem nextAction_eq (h : s.Agree u) : s.nextAction = u.nextAction := by
  by_cases hp : s.phase = .idle
  · unfold State.nextAction State.transactionAction State.startAction
    rw [h.pin_eq, h.faulted_eq, h.port_eq, h.level_eq, hp, ← h.phase_eq, hp]
    -- only `transferAction` is left to differ, on a branch IDLE does not take
    rfl
  · rw [h.eq_withFreeCount hp, State.nextAction_withFreeCount]

theorem tick (h : s.Agree u) : s.tick.Agree u.tick := by
  simp_all [State.Agree]

theorem consume (h : s.Agree u) (rest : List Beat) : (s.consume rest).Agree (u.consume rest) := by
  simp_all [State.Agree]

theorem applyReset (h : s.Agree u) : s.applyReset.Agree u.applyReset := by
  simp_all [State.Agree]

theorem enterFault (h : s.Agree u) (k : Cause) (hdr : Word) :
    (s.enterFault k hdr).Agree (u.enterFault k hdr) := by
  simp_all [State.Agree]

theorem bumpCounter (h : s.Agree u) : s.bumpCounter.Agree u.bumpCounter := by
  simp_all [State.Agree]

/-- A frame sent whole leaves the framer in IDLE, so the free values it leaves there are not compared. -/
theorem sendFrame (h : s.Agree u) (t : Byte) (p : List Byte) :
    (s.sendFrame t p).Agree (u.sendFrame t p) := by
  simp_all [State.Agree]

/-- A command that starts latches all five registers, so what they held in IDLE is gone. -/
theorem latch (h : s.Agree u) (t : Byte) (n : Half) (p : List Byte) :
    (s.latch t n p).Agree (u.latch t n p) := by
  simp_all [State.Agree]

theorem startTlm (h : s.Agree u) (w : Word) : (s.startTlm w).Agree (u.startTlm w) := by
  unfold State.startTlm
  rw [h.record_eq]
  exact h.bumpCounter.latch _ _ _

theorem transfer (h : s.Agree u) : s.transfer.Agree u.transfer := by
  by_cases hp : s.phase = .idle
  · rw [State.transfer_of_idle hp, State.transfer_of_idle (h.phase_eq ▸ hp)]
    exact h
  · rw [h.eq_withFreeCount hp]
    exact s.transfer_agree_withFreeCount _

end State.Agree

/-- A command takes states that agree to states that agree: neither whether it is enabled nor the record
of a TLM depends on the registers that may differ. -/
theorem exec_agree {s u s' : State} (h : s.Agree u) {i : Instr} (hs : exec i s = .next s') :
    ∃ u', exec i u = .next u' ∧ s'.Agree u' := by
  cases i with
  | frame t p =>
    obtain ⟨hp, hs⟩ := execFrame_next hs
    refine ⟨_, execFrame_eq_next t hp u, ?_⟩
    rw [← h.enabled_eq]
    rcases hs with ⟨he, rfl⟩ | ⟨he, rfl⟩
    · simpa [he] using h.sendFrame t p
    · simpa [he] using h
  | tlm w =>
    refine ⟨_, execTlm_eq_next w u, ?_⟩
    rw [← h.enabled_eq, ← h.record_eq]
    rcases execTlm_next hs with ⟨he, rfl⟩ | ⟨he, rfl⟩
    · simpa [he] using h.bumpCounter.sendFrame _ _
    · simpa [he] using h

/-- One action performed on states that agree gives states that agree. -/
theorem perform_agree {s u s' : State} (h : s.Agree u) {a : Action} (hs : perform a s = .next s') :
    ∃ u', perform a u = .next u' ∧ s'.Agree u' := by
  cases a with
  | execute i rest => exact exec_agree (h.consume rest) hs
  | reset => cases hs; exact ⟨_, rfl, h.applyReset⟩
  | hold why => cases hs; exact ⟨_, rfl, h⟩
  | takeFault k hdr rest => cases hs; exact ⟨_, rfl, (h.consume rest).enterFault k hdr⟩
  | startFrame t n rest => cases hs; exact ⟨_, rfl, (h.consume rest).latch t n []⟩
  | startTlm w rest => cases hs; exact ⟨_, rfl, (h.consume rest).startTlm w⟩
  | transfer => cases hs; exact ⟨_, rfl, h.transfer⟩

/-- Settles O36: both states call for the same action, and it takes them to states that agree. -/
theorem idleFramerRegistersAreNeverRead : Obligations.IdleFramerRegistersAreNeverRead := by
  intro s u s' h hs
  unfold step at hs ⊢
  rw [← h.nextAction_eq]
  exact perform_agree h.tick hs

end Sys2Proof.Machine

/-! The command stream at the transaction level and the frames it makes (20_memory.md). -/

namespace Sys2Proof

open Machine

/-- A well-formed command presented in its encoded form is fetched back, whatever follows it
(30_encoding.md R60, R72). -/
theorem fetch_encode_append {i : Instr} (hi : i.WellFormed) (rest : List Beat) :
    fetch (encode i ++ rest) = .command i rest := by
  cases i with
  | frame t p =>
    have hp : PayloadFits p := of_decide_eq_true hi
    have hn : (BitVec.ofNat 16 p.length).toNat = p.length := by
      simp only [PayloadFits, Config.maxPayload] at hp
      simp only [BitVec.toNat_ofNat]
      omega
    simp only [encode_frame t hp, List.cons_append, fetch, decodeHeader_frameHeader, hn, takeBytes_map]
  | tlm w => simp [fetch]

end Sys2Proof

namespace Sys2Proof.Machine

/-- A telemetry frame around its payload: the length's two bytes are 0x00 and 0x08 (30_encoding.md R66;
43_telemetry_serializer.md R131). -/
theorem buildFrame_serialize (t : Byte) (r : TelemetryRecord) :
    buildFrame t (serialize r) = [0xAA, 0x55, t, 0x00, 0x08] ++ serialize r ++
      [xorFold (checksummed t Config.tlmPayloadLen (serialize r))] := by
  have hlen : lenEncode Config.tlmPayloadLen = (0x00, 0x08) := by decide
  rw [buildFrame_eq, serialize_length, show BitVec.ofNat 16 8 = Config.tlmPayloadLen from rfl,
    checksummed, hlen]
  rfl

/-- The pattern of an integer is the integer modulo 2^32 (00_scope.md R8). -/
theorem bits32_toNat (w : Int) : ((bits32 w).toNat : Int) = w % 2 ^ 32 := by
  simp [bits32]; omega

/-- Settles O12: the two fields stand little-endian at offsets 5 and 9, the length big-endian at 3. -/
theorem telemetryFrameViews : Obligations.TelemetryFrameViews := by
  intro c w _ f
  have hf : f = _ := buildFrame_serialize 0x01 { counter := c, weightG := w }
  have hc : (f.drop 5).take 4 = le32 c := by rw [hf]; rfl
  have hw : (f.drop 9).take 4 = le32 (bits32 w) := by rw [hf]; rfl
  have hn : (f.drop 3).take 2 = [0x00, 0x08] := by rw [hf]; rfl
  rw [hc, hw, hn, leValue_le32, leValue_le32]
  exact ⟨rfl, bits32_toNat w, rfl⟩

/-- What a command does to the state when it is enabled: it counts itself if it is a TLM, and sends
its frame (42_packet_framer.md R101; 43_telemetry_serializer.md R133). -/
def State.complete (s : State) (i : Instr) : State :=
  { s with cnt := counterAfter s.cnt i }.sendFrame (commandFrame s.cnt i).1 (commandFrame s.cnt i).2

/-- `exec` of an enabled well-formed command completes it. -/
theorem exec_of_enabled {i : Instr} (hi : i.WellFormed) {s : State} (he : s.enabled = true) :
    exec i s = .next (s.complete i) := by
  cases i with
  | frame t p => exact (execFrame_eq_next t (of_decide_eq_true hi) s).trans (by rw [if_pos he]; rfl)
  | tlm w => exact (execTlm_eq_next w s).trans (by rw [if_pos he]; rfl)

/-- Between two commands at the transaction level, out of the fault state, with no reset to come and a
sink that always accepts. -/
structure State.RunsFreely (s : State) : Prop where
  level : s.level = .transaction
  faulted : s.faulted = false
  phase : s.phase = .idle
  pins : s.pins = []
  pinsAfter : s.pinsAfter = { reset := false, sinkReady := true }

/-- The state after the command `i` at the front of the port ran, `rest` following it there. -/
def State.afterCommand (s : State) (i : Instr) (rest : List Beat) : State :=
  (s.tick.consume rest).complete i

section AfterCommand

variable (s : State) (i : Instr) (rest : List Beat)

@[simp] theorem State.afterCommand_cnt : (s.afterCommand i rest).cnt = counterAfter s.cnt i := by
  simp [State.afterCommand, State.complete]

@[simp] theorem State.afterCommand_status : (s.afterCommand i rest).status = s.status := by
  simp [State.afterCommand, State.complete]

@[simp] theorem State.afterCommand_faultHdr : (s.afterCommand i rest).faultHdr = s.faultHdr := by
  simp [State.afterCommand, State.complete]

@[simp] theorem State.afterCommand_out : (s.afterCommand i rest).out =
    s.out ++ frameEvents (commandFrame s.cnt i).1 (commandFrame s.cnt i).2 := by
  simp [State.afterCommand, State.complete]

@[simp] theorem State.afterCommand_port : (s.afterCommand i rest).port = rest := by
  simp [State.afterCommand, State.complete]

@[simp] theorem State.afterCommand_pos : (s.afterCommand i rest).pos = s.pos + 1 := by
  simp [State.afterCommand, State.complete]

end AfterCommand

namespace State.RunsFreely

variable {s : State} {i : Instr} {rest : List Beat}

/-- The next command runs in one step (20_memory.md R49). -/
theorem step_eq (h : s.RunsFreely) (hi : i.WellFormed) (hq : s.port = encode i ++ rest) :
    step s = .next (s.afterCommand i rest) := by
  have hpin : s.pin = { reset := false, sinkReady := true } := (s.pin_of_nil h.pins).trans h.pinsAfter
  have hf : fetch s.port = .command i rest := hq ▸ fetch_encode_append hi rest
  have he : (s.tick.consume rest).enabled = true := s.enabled_iff.mpr ⟨h.faulted, h.phase⟩
  calc step s = exec i (s.tick.consume rest) :=
        stepRunsThePresentedCommand s i rest (by rw [hpin]) (by rw [hpin]) h.faulted h.phase h.level hf
    _ = .next (s.afterCommand i rest) := exec_of_enabled hi he

/-- After a command the next one can run. -/
theorem afterCommand (h : s.RunsFreely) : (s.afterCommand i rest).RunsFreely where
  level := by simp [State.afterCommand, State.complete, h.level]
  faulted := (State.faulted_congr (by simp)).trans h.faulted
  phase := by simp [State.afterCommand, State.complete]
  pins := by simp [State.afterCommand, State.complete, h.pins]
  pinsAfter := by simp [State.afterCommand, State.complete, h.pinsAfter]

end State.RunsFreely

/-- A command and then the rest of a sequence advance CNT by the number of TLMs among them all
(43_telemetry_serializer.md R134). -/
theorem counterAfter_add_tlmCount (c : Word) (i : Instr) (is : List Instr) :
    counterAfter c i + BitVec.ofNat 32 (tlmCount is) = c + BitVec.ofNat 32 (tlmCount (i :: is)) := by
  cases i with
  | frame t p => simp [counterAfter, tlmCount, isTlm]
  | tlm w =>
    have hcount : tlmCount (.tlm w :: is) = tlmCount is + 1 := List.countP_cons_of_pos rfl
    rw [hcount, BitVec.ofNat_add, counterAfter]
    ac_rfl

/-- A run whose first step answers a next state goes on from there. -/
theorem run_succ_of_step {s s' : State} (h : step s = .next s') (n : Nat) :
    core.run (n + 1) s = core.run n s' := by
  have hcore : core.step s = .next s' := h
  simp only [Host.Core.run, hcore]

/-- Settles O46, by induction on the sequence: the first command runs in one step and leaves a state
from which the rest runs. -/
theorem commandsRunInPortOrder : Obligations.CommandsRunInPortOrder := by
  intro is s rest hwf hl hf hp hpins hafter hq
  have h : s.RunsFreely := ⟨hl, hf, hp, hpins, hafter⟩
  clear hl hf hp hpins hafter
  induction is generalizing s with
  | nil =>
    exact ⟨s, rfl, by simp [commandFrames, framesEvents], by simp [tlmCount], rfl, hq, rfl, rfl⟩
  | cons i is ih =>
    obtain ⟨hi, hwf⟩ := List.forall_mem_cons.mp hwf
    have hstep := h.step_eq (rest := is.flatMap encode ++ rest) hi (by simpa using hq)
    obtain ⟨u, hrun, hout, hcnt, hpos, hport, hstatus, hhdr⟩ :=
      ih (s.afterCommand i _) hwf (s.afterCommand_port i _) h.afterCommand
    refine ⟨u, (run_succ_of_step hstep is.length).trans hrun, ?_, ?_, ?_, hport, ?_, ?_⟩
    · simp [hout, commandFrames, framesEvents]
    · rw [hcnt, State.afterCommand_cnt, counterAfter_add_tlmCount]
    · simp only [hpos, State.afterCommand_pos, List.length_cons]
      omega
    · rw [hstatus, State.afterCommand_status]
    · rw [hhdr, State.afterCommand_faultHdr]

end Sys2Proof.Machine

/-! The encoding of commands (30_encoding.md): a header's fields as numbers, the decoder's answer for each
of them, and the two directions of the round trip through the port. -/

namespace Sys2Proof.Machine

theorem opField_eq_iff (h : Word) (op : Byte) : opField h = op ↔ h.toNat / 2 ^ 24 = op.toNat := by
  rw [← BitVec.toNat_inj, opField_toNat]

theorem reservedField_eq_zero_iff (h : Word) : reservedField h = 0 ↔ h.toNat % 2 ^ 24 = 0 := by
  rw [← BitVec.toNat_inj, reservedField_toNat]
  rfl

theorem typeField_eq_ofNat (h : Word) :
    typeField h = BitVec.ofNat 8 (h.toNat / 2 ^ 16 % 2 ^ 8) := by
  apply BitVec.eq_of_toNat_eq
  simp [typeField_toNat]

theorem lenField_eq_ofNat (h : Word) : lenField h = BitVec.ofNat 16 (h.toNat % 2 ^ 16) := by
  apply BitVec.eq_of_toNat_eq
  simp [lenField_toNat]

/-- The `len` field counts every payload that fits (30_encoding.md R64, R72). -/
theorem toNat_ofNat_length {p : List Byte} (hp : PayloadFits p) :
    (BitVec.ofNat 16 p.length : Half).toNat = p.length := by
  simp only [PayloadFits, Config.maxPayload] at hp
  simp only [BitVec.toNat_ofNat]
  omega

/-- A FRAME header as the number R72 gives for it. -/
theorem frameHeader_eq_ofNat (t : Byte) {p : List Byte} (hp : PayloadFits p) :
    frameHeader t (BitVec.ofNat 16 p.length) =
      BitVec.ofNat 32 (0x01 * 2 ^ 24 + t.toNat * 2 ^ 16 + p.length) := by
  calc frameHeader t (BitVec.ofNat 16 p.length)
      = BitVec.ofNat 32 (frameHeader t (BitVec.ofNat 16 p.length)).toNat := by simp
    _ = BitVec.ofNat 32 (0x01 * 2 ^ 24 + t.toNat * 2 ^ 16 + p.length) := by
      rw [frameHeader_toNat, toNat_ofNat_length hp, Nat.one_mul]

end Sys2Proof.Machine

namespace Sys2Proof

open Machine

section DecodeHeader

variable {h : Word}

theorem decodeHeader_of_op_frame (op : opField h = 1) :
    decodeHeader h = .frame (typeField h) (lenField h) := if_pos op

/-- Op 0x02 is the one op whose reserved bits are looked at (30_encoding.md R63). -/
theorem decodeHeader_of_op_tlm (op : opField h = 2) :
    decodeHeader h = if reservedField h = 0 then .tlm else .fault .reservedNonzero := by
  simp only [decodeHeader, op]
  rfl

theorem decodeHeader_of_op_illegal (h1 : opField h ≠ 1) (h2 : opField h ≠ 2) :
    decodeHeader h = .fault .illegalOp := (if_neg h1).trans (if_neg h2)

end DecodeHeader

/-- Settles O2: the op field and the reserved field are quotient and remainder of the header by 2^24. -/
theorem everyHeaderDecodesByOpThenReservedBits :
    Obligations.EveryHeaderDecodesByOpThenReservedBits := by
  refine ⟨rfl, rfl, fun hdr => ?_⟩
  have op1 : opField hdr = 1 ↔ hdr.toNat / 2 ^ 24 = 1 := opField_eq_iff hdr 1
  have op2 : opField hdr = 2 ↔ hdr.toNat / 2 ^ 24 = 2 := opField_eq_iff hdr 2
  have res := reservedField_eq_zero_iff hdr
  simp only [ne_eq, ← op1, ← op2, ← res, ← typeField_eq_ofNat, ← lenField_eq_ofNat]
  refine ⟨decodeHeader_of_op_frame, fun h hr => ?_, fun h hr => ?_, decodeHeader_of_op_illegal⟩
  · rw [decodeHeader_of_op_tlm h, if_pos hr]
  · rw [decodeHeader_of_op_tlm h, if_neg hr]

/-- Settles O1: each of the words is decoded by evaluation. -/
theorem headerWordsOfTheSpecDecode : Obligations.HeaderWordsOfTheSpecDecode := by
  unfold Obligations.HeaderWordsOfTheSpecDecode
  decide

/-- Settles O3: the header written for a command decodes to its kind and length, and the data that
follow are taken back in full. -/
theorem decodeOfEncodeIsTheCommand : Obligations.DecodeOfEncodeIsTheCommand :=
  fun _ rest hi => fetch_encode_append hi rest

/-- Settles O4: of everything `fetch` answers, only a FRAME that fits and a TLM are commands. -/
theorem decodedCommandsAreWellFormedEncodings :
    Obligations.DecodedCommandsAreWellFormedEncodings := by
  intro bs i rest h
  rcases fetch_cases bs with ⟨hf, -⟩ | ⟨_, _, -, hf, -⟩ | ⟨_, _, _, -, hf, -⟩ |
    ⟨t, p, _, hbs, hf, hp⟩ | ⟨w, _, hbs, hf⟩
  all_goals cases h.symm.trans hf
  · exact ⟨decide_eq_true hp, hbs⟩
  · exact ⟨rfl, hbs⟩

/-- A header that faults is answered alone, with everything after it left on the port (30_encoding.md
R62). -/
theorem fetch_of_fault {hdr : Word} {k : Cause} (h : decodeHeader hdr = .fault k) (tail : List Beat) :
    fetch (.word hdr :: tail) = .faulty k hdr tail := by
  simp only [fetch, h]

/-- A FRAME that was fetched: its header is the one R72 writes, and its payload follows it. -/
theorem fetch_frame {hdr : Word} {tail rest : List Beat} {t : Byte} {p : List Byte}
    (h : fetch (.word hdr :: tail) = .command (.frame t p) rest) :
    PayloadFits p ∧ hdr = frameHeader t (BitVec.ofNat 16 p.length) ∧
      tail = p.map .byte ++ rest := by
  obtain ⟨hwf, hbs⟩ := decodedCommandsAreWellFormedEncodings _ _ _ h
  have hp : PayloadFits p := of_decide_eq_true hwf
  rw [encode_frame t hp, List.cons_append, List.cons.injEq, Beat.word.injEq] at hbs
  exact ⟨hp, hbs⟩

/-- A TLM that was fetched: one operand word follows its header. -/
theorem fetch_tlm {hdr w : Word} {tail rest : List Beat}
    (h : fetch (.word hdr :: tail) = .command (.tlm w) rest) : tail = .word w :: rest := by
  obtain ⟨-, hbs⟩ := decodedCommandsAreWellFormedEncodings _ _ _ h
  exact (List.cons.inj hbs).2

/-- Settles O5: a FRAME header's number is `2^24 + t * 2^16` and the payload's length. -/
theorem headerAloneTellsCommandLength : Obligations.HeaderAloneTellsCommandLength := by
  refine fun hdr tail rest => ⟨fun t p h => ?_, fun w h => fetch_tlm h, fun k hk => fetch_of_fault hk tail⟩
  obtain ⟨hp, rfl, htail⟩ := fetch_frame h
  refine ⟨?_, htail⟩
  simp only [PayloadFits, Config.maxPayload] at hp
  rw [frameHeader_toNat, toNat_ofNat_length hp]
  omega

/-- A FRAME term whose payload does not fit is refused in every state (60_exceptions.md R157; log
entry 8). -/
theorem exec_frame_of_not_fits (t : Byte) {p : List Byte} (hp : ¬ PayloadFits p) (s : State) :
    exec (.frame t p) s = .refused .payloadTooLong := if_neg hp

/-- Settles O6: the encoded forms are the encoder's, with the header as the number it is. -/
theorem abstractFormEncodesOrIsRefused : Obligations.AbstractFormEncodesOrIsRefused := by
  refine ⟨fun t p => decide_eq_true_iff, fun w => rfl, fun t p hp => ?_, encode_tlm, fun hdr => .rfl,
    fun t p s hp => exec_frame_of_not_fits t hp s⟩
  rw [encode_frame t hp, frameHeader_eq_ofNat t hp]

end Sys2Proof

/-! The bytes of a frame by their offsets (30_encoding.md R66, R67; 41_checksum.md R92). -/

namespace Sys2Proof.Machine

/-- The frame as its fields in order, the length by its two bytes. -/
theorem buildFrame_fields (t : Byte) (p : List Byte) :
    buildFrame t p = [0xAA, 0x55, t, hiByte (BitVec.ofNat 16 p.length),
      loByte (BitVec.ofNat 16 p.length)] ++
        (p ++ [xorFold (checksummed t (BitVec.ofNat 16 p.length) p)]) := by
  rw [buildFrame_eq]
  simp [checksummed, lenEncode]

/-- The two length bytes, high byte first, are the length (40_length_encoder.md R83). -/
theorem hiByte_loByte (n : Half) : (hiByte n).toNat * 256 + (loByte n).toNat = n.toNat := by
  rw [hiByte_toNat, loByte_toNat]
  omega

/-- What the checksum covers stands in the frame from offset 2 up to the end of the payload
(41_checksum.md R92). -/
theorem buildFrame_checksummed (t : Byte) (p : List Byte) :
    ((buildFrame t p).drop 2).take (3 + p.length) =
      checksummed t (BitVec.ofNat 16 p.length) p := by
  have hlen : (checksummed t (BitVec.ofNat 16 p.length) p).length = 3 + p.length := by
    simp [checksummed]; omega
  rw [buildFrame_eq, List.append_assoc]
  exact List.take_left' hlen

/-- Settles O9: the fields of the frame in order give each offset, and the checksum's range. -/
theorem frameLayout : Obligations.FrameLayout := by
  refine ⟨fun t p hp => ?_, fun r => by simp⟩
  rw [buildFrame_checksummed]
  refine ⟨buildFrame_length t p, ?_⟩
  rw [buildFrame_fields]
  refine ⟨rfl, ⟨_, _, rfl, rfl, ?_⟩, ?_, ?_⟩
  · rw [hiByte_loByte, toNat_ofNat_length hp]
  · simp
  · rw [List.getElem?_append_right (by simp)]
    simp

/-! Steps in which what the block waits for is not presented (60_exceptions.md R165, R166 row 5). -/

/-- A hold changes nothing but that this step's input wires are past (00_scope.md R9). -/
theorem step_of_hold {s : State} {why : HoldReason} (h : s.nextAction = .hold why) :
    step s = .next s.tick := by
  simp only [step, h, perform]

/-- With no reset and in IDLE a step holds, whether in the fault state or because neither level finds a
command to take. -/
theorem step_of_idle_hold {s : State} (hr : s.pin.reset = false) (hp : s.phase = .idle)
    {why : HoldReason} (ht : s.level = .transaction → s.transactionAction = .hold why)
    (hb : s.level = .byteSerial → s.startAction = .hold why) : step s = .next s.tick := by
  cases hf : s.faulted with
  | true => exact step_of_hold (why := .faulted) (by simp [State.nextAction, hr, hf])
  | false =>
    refine step_of_hold (why := why) ?_
    cases hl : s.level with
    | transaction => simp [State.nextAction, hr, hf, hp, hl, ht hl]
    | byteSerial => simp [State.nextAction, hr, hf, hp, hl, hb hl]

theorem fetch_noHeader {bs : List Beat} (h : fetch bs = .noHeader) :
    ∀ hdr rest, bs ≠ .word hdr :: rest := by
  rcases fetch_cases bs with ⟨-, hbs⟩ | ⟨_, _, -, hf, -⟩ | ⟨_, _, _, -, hf, -⟩ |
    ⟨_, _, _, -, hf, -⟩ | ⟨_, _, -, hf⟩
  · exact hbs
  all_goals cases h.symm.trans hf

/-- With no header word on the port no command starts at the byte-serial level (60_exceptions.md R165). -/
theorem startAction_of_noHeader {s : State} (h : ∀ hdr rest, s.port ≠ .word hdr :: rest) :
    s.startAction = .hold .noCommand := by
  unfold State.startAction
  split
  · next hq => exact absurd hq (h _ _)
  · rfl

/-- A TLM header waits on the port for its operand at the byte-serial level (60_exceptions.md R166 row 5;
log entry 7). -/
theorem startAction_of_tlm_without_operand {s : State} {rest : List Beat}
    (hq : s.port = .word tlmHeader :: rest) (h : ∀ w r, rest ≠ .word w :: r) :
    s.startAction = .hold .dataPending := by
  match rest with
  | [] | .byte _ :: _ => simp only [State.startAction, hq, decodeHeader_tlmHeader]
  | .word w :: r => exact absurd rfl (h w r)

/-- Settles O43: in each of the three cases the level's own next action is a hold. -/
theorem missingInputHolds : Obligations.MissingInputHolds := by
  refine fun s hr hp => ⟨fun hf => ?_, fun hl hf => ?_, fun hl rest hq h => ?_⟩
  · exact step_of_idle_hold hr hp (fun _ => by simp only [State.transactionAction, hf])
      fun _ => startAction_of_noHeader (fetch_noHeader hf)
  · exact step_of_idle_hold (why := .dataPending) hr hp
      (fun _ => by simp only [State.transactionAction, hf]) fun hb => by simp [hl] at hb
  · exact step_of_idle_hold hr hp (fun ht => by simp [hl] at ht)
      fun _ => startAction_of_tlm_without_operand hq h

end Sys2Proof.Machine

/-! The length encoder and its inverse (40_length_encoder.md R81, R83). -/

namespace Sys2Proof.Machine

/-- The receiver's reading of the two bytes undoes the encoder (40_length_encoder.md R83). -/
@[simp] theorem lenDecode_lenEncode (n : Half) : lenDecode (lenEncode n).1 (lenEncode n).2 = n.toNat :=
  hiByte_loByte n

/-- An encoder with an inverse is injective (40_length_encoder.md R83). -/
theorem lenEncode_injective : Function.Injective lenEncode := fun m n h => BitVec.eq_of_toNat_eq <| by
  rw [← lenDecode_lenEncode m, h, lenDecode_lenEncode]

/-- Settles O7: the receiver's reading is the encoder's inverse, so the encoder is injective. -/
theorem lengthEncoderIsInvertible : Obligations.LengthEncoderIsInvertible :=
  ⟨lenDecode_lenEncode, fun _ _ h => lenEncode_injective h⟩

end Sys2Proof.Machine

/-! The laws of the checksum (41_checksum.md R91, R93). -/

namespace Sys2Proof.Machine

/-- The order of the bytes does not matter (41_checksum.md R93 a). -/
theorem xorFold_perm {s u : List Byte} (h : s.Perm u) : xorFold s = xorFold u :=
  h.foldl_eq' (fun a _ b _ acc => by simp only [accumulate]; ac_rfl) 0x00

/-- Changing one byte changes the fold by the difference of the byte's two values. -/
theorem xorFold_modify (f : Byte → Byte) {s : List Byte} {i : Nat} (h : i < s.length) :
    xorFold (s.modify i f) = xorFold s ^^^ (s[i] ^^^ f s[i]) := by
  induction s generalizing i with
  | nil => simp at h
  | cons b s ih =>
    cases i with
    | zero =>
      calc xorFold (f b :: s) = (b ^^^ b) ^^^ (f b ^^^ xorFold s) := by simp
        _ = (b ^^^ xorFold s) ^^^ (b ^^^ f b) := by ac_rfl
        _ = xorFold (b :: s) ^^^ (b ^^^ f b) := by rw [xorFold_cons]
    | succ i => simp [ih (Nat.lt_of_succ_lt_succ h), BitVec.xor_assoc]

/-- Flipping the bits `m` of one byte flips them in the fold. -/
theorem xorFold_modify_xor {s : List Byte} {i : Nat} (h : i < s.length) (m : Byte) :
    xorFold (s.modify i (· ^^^ m)) = xorFold s ^^^ m := by
  rw [xorFold_modify _ h, ← BitVec.xor_assoc s[i], BitVec.xor_self, BitVec.zero_xor]

/-- A byte replaced by another one changes the fold (41_checksum.md R93 d). -/
theorem xorFold_set_ne {s : List Byte} {i : Nat} {b : Byte} (h : i < s.length)
    (hb : s[i]? ≠ some b) : xorFold (s.set i b) ≠ xorFold s := by
  have hne : s[i] ≠ b := by simpa [h] using hb
  rw [List.set_eq_modify, xorFold_modify _ h]
  simpa [BitVec.xor_eq_zero_iff] using hne

/-- The same flip at two places cancels in the fold (41_checksum.md R93 d). -/
theorem xorFold_modify_xor_twice {s : List Byte} {i j : Nat} (hi : i < s.length)
    (hj : j < s.length) (m : Byte) :
    xorFold ((s.modify i (· ^^^ m)).modify j (· ^^^ m)) = xorFold s := by
  rw [xorFold_modify_xor (by simpa using hj), xorFold_modify_xor hi, BitVec.xor_assoc,
    BitVec.xor_self, BitVec.xor_zero]

/-- The receiver's fold, checksum byte included, is 0 exactly when that byte matches
(41_checksum.md R93 c). -/
theorem xorFold_snoc_eq_zero_iff (s : List Byte) (c : Byte) :
    xorFold (s ++ [c]) = 0 ↔ c = xorFold s := by
  rw [← accumulate_xorFold]
  exact BitVec.xor_eq_zero_iff.trans eq_comm

/-- With no payload both length bytes are 0, and the type is all that counts (41_checksum.md R93 b). -/
theorem xorFold_checksummed_empty (t : Byte) : xorFold (checksummed t 0 []) = t := by
  have hlen : lenEncode 0 = (0, 0) := by decide
  simp only [checksummed, hlen]
  simp

/-- Settles O8: XOR is commutative and every value is its own inverse, so the fold is a sum in which a
byte's change shows as the difference of its two values. -/
theorem checksumLaws : Obligations.ChecksumLaws :=
  ⟨fun _ _ => xorFold_perm, xorFold_checksummed_empty, fun _ _ _ => xorFold_snoc_eq_zero_iff _,
    fun _ _ _ => xorFold_set_ne, fun _ _ _ m hi hj _ => xorFold_modify_xor_twice hi hj m⟩

end Sys2Proof.Machine

/-! The framer's registers while a frame is in progress (10_state.md R32; 41_checksum.md R95;
42_packet_framer.md R106, R107). -/

namespace Sys2Proof.Machine

/-- In IDLE the framer's registers are free (10_state.md R32). -/
theorem State.framerInv_of_idle {s : State} (h : s.phase = .idle) : s.FramerInv := by
  simp [State.FramerInv, State.LatchInv, h]

/-- A command that starts is sound when no payload is latched yet, or all of it (42_packet_framer.md
R106). -/
theorem State.framerInv_latch (s : State) (t : Byte) {n : Half} {p : List Byte}
    (h : p = [] ∨ p.length = n.toNat) : (s.latch t n p).FramerInv :=
  ⟨fun _ => rfl, rfl, h⟩

section InEachPhase

variable {s : State}

/-- What the invariant says in PAYLOAD: IDX bytes of the payload are sent. -/
theorem State.framerInv_iff_of_payload (hp : s.phase = .payload) :
    s.FramerInv ↔ s.acc = xorFold (checksummed s.ltype s.llen (s.lpay.take s.idx.toNat)) ∧
      s.idx.toNat < s.llen.toNat ∧
      (s.lpay.length = s.idx.toNat ∨ s.lpay.length = s.llen.toNat) := by
  simp [State.FramerInv, State.LatchInv, State.summedSoFar, hp]

/-- What the invariant says in CHK: ACC is the checksum of the frame. -/
theorem State.framerInv_iff_of_chk (hp : s.phase = .chk) :
    s.FramerInv ↔ s.acc = xorFold (checksummed s.ltype s.llen s.lpay) ∧
      s.lpay.length = s.llen.toNat := by
  simp [State.FramerInv, State.LatchInv, State.summedSoFar, hp]

end InEachPhase

section PayloadRow

variable (s : State) (b : Byte)

@[simp] theorem State.payloadRow_phase :
    (s.payloadRow b).phase = if s.idx + 1 = s.llen then .chk else .payload := rfl

@[simp] theorem State.payloadRow_idx : (s.payloadRow b).idx = s.idx + 1 := rfl

@[simp] theorem State.payloadRow_acc : (s.payloadRow b).acc = accumulate s.acc b := by
  simp [State.payloadRow]

@[simp] theorem State.payloadRow_ltype : (s.payloadRow b).ltype = s.ltype := by
  simp [State.payloadRow]

@[simp] theorem State.payloadRow_llen : (s.payloadRow b).llen = s.llen := by
  simp [State.payloadRow]

@[simp] theorem State.payloadRow_lpay : (s.payloadRow b).lpay = (s.latchPayload b).lpay := rfl

variable {s b}

/-- The byte PAYLOAD sends is LPAY[IDX] already (TLM), or it is latched behind LPAY's end (FRAME). -/
theorem State.latchPayload_lpay_cases (hb : s.payloadByte = some b) :
    (s.lpay[s.idx.toNat]? = some b ∧ (s.latchPayload b).lpay = s.lpay) ∨
    (s.lpay.length ≤ s.idx.toNat ∧ (s.latchPayload b).lpay = s.lpay ++ [b]) := by
  unfold State.payloadByte at hb
  unfold State.latchPayload
  cases hl : s.lpay[s.idx.toNat]? with
  | some c => exact .inl ⟨by simpa [hl] using hb, rfl⟩
  | none => exact .inr ⟨List.getElem?_eq_none_iff.mp hl, rfl⟩

/-- LPAY up to and with IDX is then what was sent before and the byte sent now. -/
theorem State.latchPayload_take (hb : s.payloadByte = some b) :
    (s.latchPayload b).lpay.take (s.idx.toNat + 1) = s.lpay.take s.idx.toNat ++ [b] := by
  rcases latchPayload_lpay_cases hb with ⟨hget, hl⟩ | ⟨hlen, hl⟩
  · rw [hl, List.take_add_one, hget, Option.toList_some]
  · rw [hl, List.take_of_length_le hlen, List.take_of_length_le (by simpa using hlen)]

/-- With no gap before IDX, a row latches at most the one byte at IDX. -/
theorem State.latchPayload_length (hb : s.payloadByte = some b) (hi : s.idx.toNat ≤ s.lpay.length) :
    (s.latchPayload b).lpay.length = max s.lpay.length (s.idx.toNat + 1) := by
  rcases latchPayload_lpay_cases hb with ⟨hget, hl⟩ | ⟨hlen, hl⟩
  · obtain ⟨hlt, -⟩ := List.getElem?_eq_some_iff.mp hget
    rw [hl]
    omega
  · rw [hl, List.length_append, List.length_singleton]
    omega

/-- The row PAYLOAD takes its byte into ACC and moves IDX on to the next one, or on to CHK when LLEN
bytes are sent (42_packet_framer.md R107). -/
theorem State.framerInv_payloadRow (hp : s.phase = .payload) (hb : s.payloadByte = some b)
    (h : s.FramerInv) : (s.payloadRow b).FramerInv := by
  obtain ⟨hacc, hlt, hlen⟩ := (framerInv_iff_of_payload hp).mp h
  have hidx : (s.idx + 1).toNat = s.idx.toNat + 1 :=
    BitVec.toNat_add_of_lt (show s.idx.toNat + 1 < 2 ^ 16 by omega)
  have hlast : s.idx + 1 = s.llen ↔ s.idx.toNat + 1 = s.llen.toNat := by
    rw [← hidx, BitVec.toNat_inj]
  have hsum : accumulate s.acc b =
      xorFold (checksummed s.ltype s.llen ((s.latchPayload b).lpay.take (s.idx.toNat + 1))) := by
    rw [hacc, accumulate_xorFold, latchPayload_take hb, checksummed, checksummed, List.append_assoc]
  have hlen' := latchPayload_length hb (by omega)
  by_cases hn : s.idx.toNat + 1 = s.llen.toNat
  · rw [framerInv_iff_of_chk (if_pos (hlast.mpr hn))]
    rw [List.take_of_length_le (by omega)] at hsum
    refine ⟨by simpa using hsum, ?_⟩
    rw [payloadRow_lpay, payloadRow_llen]
    omega
  · rw [framerInv_iff_of_payload (if_neg (mt hlast.mp hn)), payloadRow_idx, hidx]
    refine ⟨by simpa using hsum, ?_⟩
    rw [payloadRow_lpay, payloadRow_llen]
    omega

end PayloadRow

/-- The row LENLO takes the last header byte into ACC; the payload comes next, or CHK when there is none
(42_packet_framer.md R107). -/
theorem State.framerInv_transfer_of_lenLo {s : State} (hp : s.phase = .lenLo) (h : s.FramerInv) :
    s.transfer.FramerInv := by
  simp only [State.FramerInv, State.LatchInv, State.summedSoFar, hp] at h
  obtain ⟨hacc, hidx, hlen⟩ := h
  have hsum : accumulate s.acc (lenEncode s.llen).2 = xorFold (checksummed s.ltype s.llen []) := by
    rw [hacc nofun, accumulate_xorFold]
    rfl
  unfold State.transfer
  rw [hp]
  by_cases hn : s.llen = 0
  · have hnil : s.lpay = [] := by simpa [hn] using hlen
    rw [framerInv_iff_of_chk (if_pos hn)]
    exact ⟨by simpa [hnil] using hsum, by simp [hnil, hn]⟩
  · have hpos : s.llen.toNat ≠ 0 := fun h0 => hn (BitVec.eq_of_toNat_eq h0)
    rw [framerInv_iff_of_payload (if_neg hn)]
    exact ⟨by simpa [hidx] using hsum, by simpa [hidx] using Nat.pos_of_ne_zero hpos,
      by simpa [hidx] using hlen⟩

/-- One row of the transfer table keeps the framer sound (42_packet_framer.md R107). -/
theorem State.framerInv_transfer {s : State} (h : s.FramerInv) : s.transfer.FramerInv := by
  cases hp : s.phase with
  | idle => rwa [transfer_of_idle hp]
  | lenLo => exact framerInv_transfer_of_lenLo hp h
  | payload =>
    unfold State.transfer
    rw [hp]
    cases hb : s.payloadByte with
    | none => exact h
    | some b => exact framerInv_payloadRow hp hb h
  | magic0 | magic1 | chk =>
    simpa [State.FramerInv, State.LatchInv, State.summedSoFar, State.transfer, hp] using h
  | type | lenHi =>
    simp only [State.FramerInv, State.LatchInv, State.summedSoFar, hp] at h
    obtain ⟨hacc, hlatch⟩ := h
    unfold State.transfer
    rw [hp]
    refine ⟨fun _ => ?_, hlatch⟩
    rw [emitSummed_acc, hacc nofun]
    exact accumulate_xorFold _ _
  | flush => exact framerInv_of_idle (by simp [State.transfer, hp])

/-- Settles O32: a command that starts latches sound registers, a row keeps them so, and every other step
leaves the framer in IDLE or as it was. -/
theorem everyStepKeepsTheFramerSound : Obligations.EveryStepKeepsTheFramerSound := by
  intro s u hi h
  rcases step_cases h with ⟨-, rfl⟩ | ⟨-, rfl⟩ | ⟨k, hdr, rest, -, he, -, -, rfl⟩ |
    ⟨t, p, rest, -, -, -, -, -, rfl⟩ | ⟨w, rest, -, -, -, -, rfl⟩ | ⟨t, n, rest, -, -, -, -, rfl⟩ |
    ⟨w, rest, -, -, -, -, rfl⟩ | ⟨-, -, -, -, -, rfl⟩
  · exact State.framerInv_of_idle rfl
  · exact hi
  · exact State.framerInv_of_idle (s.enabled_iff.mp he).2
  · exact State.framerInv_of_idle rfl
  · exact State.framerInv_of_idle rfl
  · exact State.framerInv_latch _ t (.inl rfl)
  · exact State.framerInv_latch _ _ (.inr rfl)
  · exact State.framerInv_transfer (s := s.tick) hi

end Sys2Proof.Machine

/-! The reference receiver (42_packet_framer.md R110, R111). -/

namespace Sys2Proof.Machine

/-- A frame whose length bytes count its payload and whose last byte is the fold is taken off the front
of the stream (42_packet_framer.md R110). -/
theorem parseFrame_of_good_frame {t hi lo c : Byte} {p : List Byte} (rest : List Byte)
    (hn : lenDecode hi lo = p.length) (hc : xorFold ([t, hi, lo] ++ p) = c) :
    parseFrame ([0xAA, 0x55, t, hi, lo] ++ (p ++ c :: rest)) = .ok t p rest := by
  have hlong : 1 ≤ p.length + (rest.length + 1) := by omega
  subst hc
  simp [parseFrame, hn, hlong]

/-- Settles O10: the frame's length bytes and checksum byte are the ones the receiver looks for. -/
theorem parseFrameRecoversTheFrame : Obligations.ParseFrameRecoversTheFrame := by
  intro t p r hp
  rw [buildFrame_fields, List.append_assoc, List.append_assoc]
  exact parseFrame_of_good_frame r ((hiByte_loByte _).trans (toNat_ofNat_length hp)) rfl

theorem framesEvents_cons (f : Byte × List Byte) (fs : List (Byte × List Byte)) :
    framesEvents (f :: fs) = frameEvents f.1 f.2 ++ framesEvents fs :=
  List.flatMap_cons

/-- Settles O11, by induction on the frames: the receiver takes the first one and is at the boundary
before the rest. -/
theorem receiverRecoversEveryFrame : Obligations.ReceiverRecoversEveryFrame := by
  intro fs r hfs
  induction fs with
  | nil => rfl
  | cons f fs ih =>
    obtain ⟨hf, hfs⟩ := List.forall_mem_cons.mp hfs
    rw [framesEvents_cons, wireBytes_append, wireBytes_frameEvents, List.append_assoc,
      List.length_cons, receive, parseFrameRecoversTheFrame f.1 f.2 _ hf]
    dsimp only
    rw [ih hfs]

end Sys2Proof.Machine

/-! The two commands at the transaction level (42_packet_framer.md R101, R103). -/

namespace Sys2Proof.Machine

/-- Settles O15: an enabled FRAME that fits sends its frame. -/
theorem frameAppendsItsFrameAndFlush : Obligations.FrameAppendsItsFrameAndFlush := by
  intro s t p hf hi hp
  refine ⟨s.sendFrame t p, ?_, ?_⟩
  · exact (execFrame_eq_next t hp s).trans (by rw [if_pos (s.enabled_iff.mpr ⟨hf, hi⟩)])
  · simp [frameEvents]

/-- What an enabled command appends is the frame R101 or R133 gives it, with its Flush
(42_packet_framer.md R103). -/
theorem exec_out {i : Instr} (hi : i.WellFormed) {s s' : State} (he : s.enabled = true)
    (h : exec i s = .next s') :
    s'.out = s.out ++ frameEvents (commandFrame s.cnt i).1 (commandFrame s.cnt i).2 := by
  cases (exec_of_enabled hi he).symm.trans h
  simp [State.complete]

/-- Settles O17: the frame a command sends is made from its operands, and for TLM from CNT. -/
theorem appendedEventsDependOnOperandsAlone : Obligations.AppendedEventsDependOnOperandsAlone := by
  refine ⟨fun s u s' u' t p hs hu h h' => ?_, fun s u s' u' w hs hu hc h h' => ?_⟩
  · obtain ⟨hp, -⟩ := execFrame_next h
    have hi : (Instr.frame t p).WellFormed := decide_eq_true hp
    exact ⟨frameEvents t p, exec_out hi hs h, exec_out hi hu h'⟩
  · exact ⟨_, exec_out rfl hs h, hc ▸ exec_out rfl hu h'⟩

end Sys2Proof.Machine

/-! What each row of the transfer table does (42_packet_framer.md R107), and when a step takes it. -/

namespace Sys2Proof.Machine

section Rows

variable {s : State}

theorem State.transfer_of_magic0 (h : s.phase = .magic0) :
    s.transfer = { s.emit 0xAA with phase := .magic1 } := by
  simp [State.transfer, h, Config.magic0]

theorem State.transfer_of_magic1 (h : s.phase = .magic1) :
    s.transfer = { s.emit 0x55 with phase := .type } := by
  simp [State.transfer, h, Config.magic1]

theorem State.transfer_of_type (h : s.phase = .type) :
    s.transfer = { s.emitSummed s.ltype with phase := .lenHi } := by
  simp [State.transfer, h]

theorem State.transfer_of_lenHi (h : s.phase = .lenHi) :
    s.transfer = { s.emitSummed (lenEncode s.llen).1 with phase := .lenLo } := by
  simp [State.transfer, h]

theorem State.transfer_of_lenLo (h : s.phase = .lenLo) :
    s.transfer = { s.emitSummed (lenEncode s.llen).2 with
      phase := if s.llen = 0 then .chk else .payload } := by
  simp [State.transfer, h]

theorem State.transfer_of_payload (h : s.phase = .payload) {b : Byte}
    (hb : s.payloadByte = some b) : s.transfer = s.payloadRow b := by
  simp [State.transfer, h, hb]

theorem State.transfer_of_chk (h : s.phase = .chk) :
    s.transfer = { s.emit s.acc with phase := .flush } := by
  simp [State.transfer, h]

theorem State.transfer_of_flush (h : s.phase = .flush) : s.transfer = s.flush.retire := by
  simp [State.transfer, h]

/-! The byte of PAYLOAD: latched already, or the next data byte on the port. -/

theorem State.payloadByte_of_latched {b : Byte} (h : s.lpay[s.idx.toNat]? = some b) :
    s.payloadByte = some b := by
  simp only [State.payloadByte, h]

theorem State.payloadByte_of_port {b : Byte} {rest : List Beat}
    (h : s.lpay[s.idx.toNat]? = none) (hq : s.port = .byte b :: rest) :
    s.payloadByte = some b := by
  simp only [State.payloadByte, h, hq]

theorem State.payloadByte_eq_none (h : s.lpay[s.idx.toNat]? = none)
    (hq : ∀ b rest, s.port ≠ .byte b :: rest) : s.payloadByte = none := by
  unfold State.payloadByte
  rw [h]
  dsimp only
  split
  · next hb => exact absurd hb (hq _ _)
  · rfl

theorem State.latchPayload_of_latched {c : Byte} (h : s.lpay[s.idx.toNat]? = some c) (b : Byte) :
    s.latchPayload b = s := by
  simp only [State.latchPayload, h]

theorem State.latchPayload_of_port (h : s.lpay[s.idx.toNat]? = none) (b : Byte) :
    s.latchPayload b = { s with lpay := s.lpay ++ [b], port := s.port.tail } := by
  simp only [State.latchPayload, h]

@[simp] theorem State.payloadRow_port (b : Byte) :
    (s.payloadRow b).port = (s.latchPayload b).port := rfl

/-! Steps with no reset, outside the fault state. -/

/-- A frame in progress takes one row when the sink accepts and, in PAYLOAD, the byte is there. -/
theorem step_of_row (hr : s.pin.reset = false) (hf : s.faulted = false) (hi : s.phase ≠ .idle)
    (hs : s.pin.sinkReady = true) (hb : s.phase = .payload → s.payloadByte ≠ none) :
    step s = .next s.tick.transfer := by
  have ha : s.nextAction = .transfer := by
    simp only [State.nextAction, State.transferAction, hr, hf, hi, hs]
    simpa using hb
  simp only [step, ha, perform]

/-- A frame in progress waits for the sink (42_packet_framer.md R109). -/
theorem step_of_sinkBusy (hr : s.pin.reset = false) (hf : s.faulted = false) (hi : s.phase ≠ .idle)
    (hs : s.pin.sinkReady = false) : step s = .next s.tick :=
  step_of_hold (why := .sinkBusy) (by simp [State.nextAction, State.transferAction, hr, hf, hi, hs])

/-- The row PAYLOAD waits for its byte (42_packet_framer.md R107). -/
theorem step_of_byte_missing (hr : s.pin.reset = false) (hf : s.faulted = false)
    (hp : s.phase = .payload) (hs : s.pin.sinkReady = true) (hb : s.payloadByte = none) :
    step s = .next s.tick :=
  step_of_hold (why := .dataPending)
    (by simp [State.nextAction, State.transferAction, hr, hf, hp, hs, hb])

/-- A FRAME starts on its header (42_packet_framer.md R106; log entry 7). -/
theorem step_of_frame_header (hr : s.pin.reset = false) (hf : s.faulted = false)
    (hi : s.phase = .idle) (hl : s.level = .byteSerial) {hdr : Word} {rest : List Beat} {t : Byte}
    {n : Half} (hq : s.port = .word hdr :: rest) (hd : decodeHeader hdr = .frame t n) :
    step s = .next ((s.tick.consume rest).startFrame t n) := by
  have ha : s.nextAction = .startFrame t n rest := by
    simp [State.nextAction, State.startAction, hr, hf, hi, hl, hq, hd]
  simp only [step, ha, perform]

/-- A TLM starts on its header and operand (42_packet_framer.md R106; log entry 7). -/
theorem step_of_tlm_header (hr : s.pin.reset = false) (hf : s.faulted = false)
    (hi : s.phase = .idle) (hl : s.level = .byteSerial) {w : Word} {rest : List Beat}
    (hq : s.port = .word tlmHeader :: .word w :: rest) :
    step s = .next ((s.tick.consume rest).startTlm w) := by
  have ha : s.nextAction = .startTlm w rest := by
    simp [State.nextAction, State.startAction, hr, hf, hi, hl, hq]
  simp only [step, ha, perform]

end Rows

/-- Settles O37: the step takes the command off the port and latches it. -/
theorem startingACommandLatches : Obligations.StartingACommandLatches := by
  refine fun s hr hf hi hl => ⟨fun hdr rest t n hq hd => ?_, fun w rest hq => ?_⟩
  · exact ⟨_, step_of_frame_header hr hf hi hl hq hd, rfl, rfl, rfl, rfl, rfl, rfl, rfl, rfl⟩
  · exact ⟨_, step_of_tlm_header hr hf hi hl hq, rfl, rfl, rfl, rfl, rfl, rfl, rfl, rfl, rfl⟩

/-- Settles O41: both alternatives have the hold on the sink as their next action. -/
theorem sinkHoldChangesNothing : Obligations.SinkHoldChangesNothing := by
  intro s hr hs hf h
  rcases h with hi | ⟨hi, hl, i, rest, hq⟩
  · exact step_of_sinkBusy hr hf hi hs
  · exact step_of_hold (why := .sinkBusy)
      (by simp [State.nextAction, State.transactionAction, hr, hf, hi, hl, hq, hs])

/-- Settles O38: a step of a frame in progress takes the row of its PHASE, or holds. -/
theorem transitionTable : Obligations.TransitionTable := by
  refine fun s hr hf => ⟨fun hi hs => step_of_sinkBusy hr hf hi hs, fun hs => ?_⟩
  have row {ph : Phase} {u : State} (hp : s.phase = ph) (hi : ph ≠ .idle) (hpay : ph ≠ .payload)
      (hu : s.tick.transfer = u) : step s = .next u :=
    hu ▸ step_of_row hr hf (hp ▸ hi) hs fun h => absurd (hp.symm.trans h) hpay
  have payload_row {b : Byte} (hp : s.phase = .payload) (hb : s.payloadByte = some b) :
      step s = .next (s.tick.payloadRow b) :=
    State.transfer_of_payload (s := s.tick) hp hb ▸
      step_of_row hr hf (by simp [hp]) hs fun _ => by simp [hb]
  refine ⟨fun hp => ?_, fun hp => ?_, fun hp => ?_, fun hp => ?_, fun hp => ?_, fun hp b hb => ?_,
    fun hp hn b rest hq => ?_, fun hp hn hq => ?_, fun hp => ?_, fun hp => ?_⟩
  · exact ⟨_, row hp nofun nofun (State.transfer_of_magic0 hp), rfl, rfl, rfl⟩
  · exact ⟨_, row hp nofun nofun (State.transfer_of_magic1 hp), rfl, rfl, rfl⟩
  · exact ⟨_, row hp nofun nofun (State.transfer_of_type hp), rfl, rfl, rfl⟩
  · exact ⟨_, row hp nofun nofun (State.transfer_of_lenHi hp), rfl, rfl, rfl⟩
  · have hn : s.llen = 0#16 ↔ s.llen.toNat = 0 := BitVec.toNat_inj.symm
    exact ⟨_, row hp nofun nofun (State.transfer_of_lenLo hp), rfl, rfl,
      by simp [hn, Nat.pos_iff_ne_zero]⟩
  · have hl := State.latchPayload_of_latched (s := s.tick) hb b
    exact ⟨_, payload_row hp (State.payloadByte_of_latched hb), by simp, by simp [accumulate], rfl,
      by simp [hl], by simp [hl], rfl⟩
  · have hl := State.latchPayload_of_port (s := s.tick) hn b
    exact ⟨_, payload_row hp (State.payloadByte_of_port hn hq), by simp, by simp [accumulate], rfl,
      by simp [hl], by simp [hl, hq], rfl⟩
  · exact step_of_byte_missing hr hf hp hs (State.payloadByte_eq_none hn hq)
  · exact ⟨_, row hp nofun nofun (State.transfer_of_chk hp), rfl, rfl, rfl⟩
  · exact ⟨_, row hp nofun nofun (State.transfer_of_flush hp), rfl, rfl⟩

end Sys2Proof.Machine

/-! What a row sends: OUT and the bytes of the frame in progress grow by the same byte
(42_packet_framer.md R104, R107). -/

namespace Sys2Proof.Machine

section Sent

variable {s : State}

theorem State.sentSoFar_of_idle (h : s.phase = .idle) : s.sentSoFar = [] := by
  simp [State.sentSoFar, h]

/-- From TYPE's byte to the last payload byte what is sent is MAGIC and what ACC has taken in. -/
theorem State.sentSoFar_of_summing
    (h : s.phase = .lenHi ∨ s.phase = .lenLo ∨ s.phase = .payload ∨ s.phase = .chk) :
    s.sentSoFar = [Config.magic0, Config.magic1] ++ s.summedSoFar := by
  rcases h with h | h | h | h <;> simp only [State.sentSoFar, h]

/-- In FLUSH the whole frame is sent (30_encoding.md R66). -/
theorem State.sentSoFar_of_flush (hp : s.phase = .flush) (h : s.FramerInv) :
    s.sentSoFar = buildFrame s.ltype s.lpay := by
  simp only [State.FramerInv, State.LatchInv, hp] at h
  obtain ⟨hacc, hlen⟩ := h
  have hn : BitVec.ofNat 16 s.lpay.length = s.llen := by simp [hlen]
  rw [buildFrame_eq, hn]
  simp only [State.sentSoFar, State.summedSoFar, hp] at hacc ⊢
  rw [hacc nofun]
  rfl

theorem State.summedSoFar_of_payload (h : s.phase = .payload) :
    s.summedSoFar = checksummed s.ltype s.llen (s.lpay.take s.idx.toNat) := by
  simp only [State.summedSoFar, h]

theorem State.summedSoFar_of_chk (h : s.phase = .chk) :
    s.summedSoFar = checksummed s.ltype s.llen s.lpay := by
  simp only [State.summedSoFar, h]

/-- The row LENLO adds its byte to what ACC has taken in, and no payload byte with it. -/
theorem State.summedSoFar_transfer_of_lenLo (hp : s.phase = .lenLo) (h : s.FramerInv) :
    s.transfer.summedSoFar = s.summedSoFar ++ [(lenEncode s.llen).2] := by
  simp only [State.FramerInv, State.LatchInv, hp] at h
  obtain ⟨-, hidx, hlen⟩ := h
  have hsum : checksummed s.ltype s.llen [] = s.summedSoFar ++ [(lenEncode s.llen).2] := by
    simp [State.summedSoFar, hp, checksummed]
  rw [← hsum, transfer_of_lenLo hp]
  by_cases hn : s.llen = 0
  · have hnil : s.lpay = [] := by simpa [hn] using hlen
    rw [summedSoFar_of_chk (if_pos hn)]
    simp [hnil]
  · rw [summedSoFar_of_payload (if_neg hn)]
    simp [hidx]

/-- The row PAYLOAD adds its byte to what ACC has taken in, whether the payload goes on or is
complete. -/
theorem State.summedSoFar_payloadRow {b : Byte} (hp : s.phase = .payload)
    (hb : s.payloadByte = some b) (h : s.FramerInv) :
    (s.payloadRow b).summedSoFar = s.summedSoFar ++ [b] := by
  obtain ⟨-, hlt, hlen⟩ := (framerInv_iff_of_payload hp).mp h
  have hidx : (s.idx + 1).toNat = s.idx.toNat + 1 :=
    BitVec.toNat_add_of_lt (show s.idx.toNat + 1 < 2 ^ 16 by omega)
  have hsum : checksummed s.ltype s.llen ((s.latchPayload b).lpay.take (s.idx.toNat + 1)) =
      s.summedSoFar ++ [b] := by
    rw [summedSoFar_of_payload hp, latchPayload_take hb, checksummed, checksummed,
      List.append_assoc]
  rw [← hsum]
  by_cases hn : s.idx + 1 = s.llen
  · have hall : (s.latchPayload b).lpay.length ≤ s.idx.toNat + 1 := by
      rw [latchPayload_length hb (by omega), ← hidx, hn]
      omega
    rw [summedSoFar_of_chk (if_pos hn), List.take_of_length_le hall]
    simp
  · rw [summedSoFar_of_payload (if_neg hn), payloadRow_idx, hidx]
    simp

/-- A row other than FLUSH sends one byte of the frame (42_packet_framer.md R107). -/
theorem State.transfer_sends_byte (hi : s.phase ≠ .idle) (hl : s.phase ≠ .flush)
    (hb : s.phase = .payload → s.payloadByte ≠ none) (h : s.FramerInv) :
    ∃ b, s.transfer.out = s.out ++ [.byte b] ∧ s.transfer.sentSoFar = s.sentSoFar ++ [b] := by
  cases hp : s.phase with
  | idle => exact absurd hp hi
  | flush => exact absurd hp hl
  | magic0 =>
    rw [transfer_of_magic0 hp]
    exact ⟨_, rfl, by simp only [State.sentSoFar, hp]; rfl⟩
  | magic1 =>
    rw [transfer_of_magic1 hp]
    exact ⟨_, rfl, by simp only [State.sentSoFar, hp]; rfl⟩
  | type =>
    rw [transfer_of_type hp]
    exact ⟨_, rfl, by simp only [State.sentSoFar, hp]; rfl⟩
  | lenHi =>
    rw [sentSoFar_of_summing (.inl hp), transfer_of_lenHi hp, sentSoFar_of_summing (.inr (.inl rfl))]
    exact ⟨_, rfl, by simp only [State.summedSoFar, hp]; rfl⟩
  | lenLo =>
    have hnext : s.transfer.phase = .payload ∨ s.transfer.phase = .chk := by
      rw [transfer_of_lenLo hp]
      exact (ite_eq_or_eq _ _ _).symm
    rw [sentSoFar_of_summing (.inr (.inl hp)), sentSoFar_of_summing (.inr (.inr hnext)),
      summedSoFar_transfer_of_lenLo hp h, ← List.append_assoc]
    exact ⟨_, by rw [transfer_of_lenLo hp]; rfl, rfl⟩
  | payload =>
    obtain ⟨b, hb⟩ := Option.ne_none_iff_exists'.mp (hb hp)
    have hnext : (s.payloadRow b).phase = .payload ∨ (s.payloadRow b).phase = .chk :=
      (ite_eq_or_eq _ _ _).symm
    rw [transfer_of_payload hp hb, sentSoFar_of_summing (.inr (.inr (.inl hp))),
      sentSoFar_of_summing (.inr (.inr hnext)), summedSoFar_payloadRow hp hb h, ← List.append_assoc]
    exact ⟨b, payloadRow_out s b, rfl⟩
  | chk =>
    rw [sentSoFar_of_summing (.inr (.inr (.inr hp))), transfer_of_chk hp]
    exact ⟨_, rfl, by simp only [State.sentSoFar, State.summedSoFar, hp]; rfl⟩

end Sent

/-- A telemetry payload fits a frame (43_telemetry_serializer.md R131). -/
theorem payloadFits_serialize (r : TelemetryRecord) : PayloadFits (serialize r) := by
  simp [PayloadFits, Config.maxPayload]

section Wire

variable {s : State}

/-- Where nothing of a frame is sent yet, OUT is whole frames alone. -/
theorem State.wireInv_iff_of_nothing_sent (h : s.sentSoFar = []) : s.WireInv ↔ Framed s.out := by
  simp [State.WireInv, h]

theorem State.wireInv_iff_of_idle (h : s.phase = .idle) : s.WireInv ↔ Framed s.out :=
  wireInv_iff_of_nothing_sent (sentSoFar_of_idle h)

/-- Whole frames in OUT stay so when one more is sent in one piece. -/
theorem State.wireInv_sendFrame (h : Framed s.out) (t : Byte) {p : List Byte} (hp : PayloadFits p) :
    (s.sendFrame t p).WireInv := by
  rw [wireInv_iff_of_idle (sendFrame_phase s t p), sendFrame_out]
  exact h.snoc t hp

/-- The payload of a frame in FLUSH is as long as a `len` field counts. -/
theorem State.payloadFits_of_flush (hp : s.phase = .flush) (h : s.FramerInv) :
    PayloadFits s.lpay := by
  simp only [State.FramerInv, State.LatchInv, hp] at h
  obtain ⟨-, hlen⟩ := h
  have := s.llen.isLt
  simp only [PayloadFits, Config.maxPayload]
  omega

/-- A row keeps OUT whole frames and then what is sent of the frame in progress: FLUSH makes that frame a
whole one, and every other row sends its next byte (42_packet_framer.md R104, R107). -/
theorem State.wireInv_transfer (hi : s.phase ≠ .idle)
    (hb : s.phase = .payload → s.payloadByte ≠ none) (h : s.FramerInv) (hw : s.WireInv) : s.transfer.WireInv := by
  obtain ⟨sent, hf, hout⟩ := hw
  by_cases hp : s.phase = .flush
  · rw [transfer_of_flush hp, wireInv_iff_of_idle rfl, retire_out, flush_out, hout,
      sentSoFar_of_flush hp h, List.append_assoc]
    exact hf.snoc s.ltype (payloadFits_of_flush hp h)
  · obtain ⟨b, ho, hsent⟩ := transfer_sends_byte hi hp hb h
    exact ⟨sent, hf, by rw [ho, hsent, hout]; simp⟩

end Wire

/-- Settles O33: a row sends the next byte of its frame or completes it, a command run whole appends a
whole frame, and every other step leaves OUT as it is with nothing of a new frame sent. -/
theorem everyStepKeepsOutFramed : Obligations.EveryStepKeepsOutFramed := by
  intro s u hi hw hcut h
  have framed (hp : s.phase = .idle) : Framed s.out := (State.wireInv_iff_of_idle hp).mp hw
  have idle (he : s.enabled = true) : s.phase = .idle := (s.enabled_iff.mp he).2
  rcases step_cases h with ⟨hr, rfl⟩ | ⟨-, rfl⟩ | ⟨k, hdr, rest, -, he, -, -, rfl⟩ |
    ⟨t, p, rest, -, he, -, -, hp, rfl⟩ | ⟨w, rest, -, he, -, -, rfl⟩ |
    ⟨t, n, rest, -, he, -, -, rfl⟩ | ⟨w, rest, -, he, -, -, rfl⟩ | ⟨-, -, hp, -, hb, rfl⟩
  · have hp : s.phase = .idle := by_contra fun hp => hcut ⟨hr, hp⟩
    exact (State.wireInv_iff_of_idle rfl).mpr (framed hp)
  · exact hw
  · exact (State.wireInv_iff_of_idle (idle he)).mpr (framed (idle he))
  · exact State.wireInv_sendFrame (s := s.tick.consume rest) (framed (idle he)) t hp
  · exact State.wireInv_sendFrame (s := (s.tick.consume rest).bumpCounter) (framed (idle he))
      Config.typeTelemetry (payloadFits_serialize (s.record w))
  · exact (State.wireInv_iff_of_nothing_sent rfl).mpr (framed (idle he))
  · exact (State.wireInv_iff_of_nothing_sent rfl).mpr (framed (idle he))
  · exact State.wireInv_transfer (s := s.tick) hp hb hi hw

end Sys2Proof.Machine

/-! A frame in progress is sent to its end, and the two levels agree on what it leaves
(42_packet_framer.md R108; 70_reset_and_hazards.md R178). -/

namespace Sys2Proof.Machine

/-! What no row writes. -/

section Context

variable (s : State)

/-- A row leaves the inputs still to come but the port, the position and the level as they are. -/
theorem State.transfer_keeps_inputs : s.transfer.pins = s.pins ∧
    s.transfer.pinsAfter = s.pinsAfter ∧ s.transfer.pos = s.pos ∧ s.transfer.level = s.level := by
  unfold State.transfer
  cases s.phase with
  | payload => cases s.payloadByte <;> simp [State.payloadRow]
  | idle | magic0 | magic1 | type | lenHi | lenLo | chk | flush => exact ⟨rfl, rfl, rfl, rfl⟩

/-- The fields outside the framer that a frame in progress leaves as they are. -/
def State.context : Word × Byte × Word × Pins × Nat × Level :=
  (s.cnt, s.status, s.faultHdr, s.pinsAfter, s.pos, s.level)

@[simp] theorem State.tick_context : s.tick.context = s.context := rfl

@[simp] theorem State.tick_sentSoFar : s.tick.sentSoFar = s.sentSoFar := rfl

@[simp] theorem State.transfer_context : s.transfer.context = s.context := by
  obtain ⟨-, hafter, hpos, hlevel⟩ := s.transfer_keeps_inputs
  simp [State.context, hafter, hpos, hlevel]

@[simp] theorem State.transfer_pins : s.transfer.pins = s.pins := by
  obtain ⟨h, -⟩ := s.transfer_keeps_inputs
  exact h

@[simp] theorem State.transfer_pinsAfter : s.transfer.pinsAfter = s.pinsAfter := by
  obtain ⟨-, h, -⟩ := s.transfer_keeps_inputs
  exact h

end Context

/-! Between commands with nothing more presented. -/

/-- OUT is `out`, no frame is in progress, and no beat and no listed input wires are left. -/
def State.AtRest (s : State) (out : List Event) : Prop :=
  s.out = out ∧ s.phase = .idle ∧ s.port = [] ∧ s.pins = []

/-- At rest the framer's registers are free, so OUT and the context tell all that is compared. -/
theorem State.AtRest.agree {s u : State} {out : List Event} (hs : s.AtRest out) (hu : u.AtRest out)
    (hc : s.context = u.context) : s.Agree u := by
  obtain ⟨ho, hp, hq, hpins⟩ := hs
  obtain ⟨ho', hp', hq', hpins'⟩ := hu
  simp only [State.context, Prod.mk.injEq] at hc
  simp [State.Agree, hc, ho, ho', hp, hp', hq, hq', hpins, hpins']

theorem State.noReset.pin_reset {s : State} (h : s.noReset) : s.pin.reset = false := by
  obtain ⟨hnow, hafter⟩ := h
  unfold State.pin
  split
  · exact hafter
  · next p ps hp => exact hnow p (by simp [hp])

theorem State.noReset.tick {s : State} (h : s.noReset) : s.tick.noReset := by
  obtain ⟨hnow, hafter⟩ := h
  exact ⟨fun p hp => hnow p (List.mem_of_mem_tail hp), hafter⟩

/-- With nothing presented and no reset the block stays idle (60_exceptions.md R165). -/
theorem run_of_empty_port {s : State} (hr : s.noReset) (hi : s.phase = .idle) (hq : s.port = [])
    (n : Nat) : core.run n s = .next { s with pins := s.pins.drop n } := by
  induction n generalizing s with
  | zero => rfl
  | succ n ih =>
    obtain ⟨hstep, -⟩ := missingInputHolds s hr.pin_reset hi
    calc core.run (n + 1) s = core.run n s.tick := run_succ_of_step (hstep (by rw [hq]; rfl)) n
      _ = .next { s with pins := s.pins.tail.drop n } := ih hr.tick hi hq
      _ = .next { s with pins := s.pins.drop (n + 1) } := by rw [List.drop_tail]

/-! A frame on its way. -/

/-- The frame of `t` and `p` is in progress: `before` was in OUT when it started, and the payload is what
is latched of it and then the data bytes on the port, with nothing after them. -/
structure State.Sending (s : State) (before : List Event) (t : Byte) (p : List Byte) : Prop where
  framer : s.FramerInv
  phase : s.phase ≠ .idle
  out : s.out = before ++ s.sentSoFar.map Event.byte
  ltype : s.ltype = t
  llen : s.llen.toNat = p.length
  data : ∃ q, s.port = q.map Beat.byte ∧ s.lpay ++ q = p

section Rows

variable {s : State}

/-- No row but FLUSH ends the frame or touches the latched type and length. -/
theorem State.transfer_keeps_frame (hi : s.phase ≠ .idle) (hl : s.phase ≠ .flush) :
    s.transfer.phase ≠ .idle ∧ s.transfer.ltype = s.ltype ∧ s.transfer.llen = s.llen := by
  cases hp : s.phase with
  | idle => exact absurd hp hi
  | flush => exact absurd hp hl
  | lenLo =>
    rw [transfer_of_lenLo hp]
    exact ⟨by dsimp only; split <;> simp, rfl, rfl⟩
  | payload =>
    cases hb : s.payloadByte with
    | none => simp [State.transfer, hp, hb]
    | some b =>
      rw [transfer_of_payload hp hb]
      exact ⟨by rw [payloadRow_phase]; split <;> simp, by simp, by simp⟩
  | magic0 | magic1 | type | lenHi | chk => simp [State.transfer, hp]

/-- A payload byte that is taken moves from the port to LPAY. -/
theorem State.payloadRow_data {b : Byte} {p q : List Byte} (hb : s.payloadByte = some b)
    (hq : s.port = q.map Beat.byte) (hd : s.lpay ++ q = p) :
    ∃ q', (s.payloadRow b).port = q'.map Beat.byte ∧ (s.payloadRow b).lpay ++ q' = p := by
  rw [payloadRow_port, payloadRow_lpay]
  cases hl : s.lpay[s.idx.toNat]? with
  | some c =>
    rw [latchPayload_of_latched hl]
    exact ⟨q, hq, hd⟩
  | none =>
    rw [latchPayload_of_port hl]
    cases q with
    | nil => cases hb.symm.trans (payloadByte_eq_none hl (by simp [hq]))
    | cons c q =>
      cases hb.symm.trans (payloadByte_of_port hl hq)
      exact ⟨q, by simp [hq], by simpa using hd⟩

/-- No row but FLUSH loses a payload byte. -/
theorem State.transfer_data {p : List Byte} (hl : s.phase ≠ .flush)
    (h : ∃ q, s.port = q.map Beat.byte ∧ s.lpay ++ q = p) :
    ∃ q, s.transfer.port = q.map Beat.byte ∧ s.transfer.lpay ++ q = p := by
  cases hp : s.phase with
  | flush => exact absurd hp hl
  | payload =>
    obtain ⟨q, hq, hd⟩ := h
    cases hb : s.payloadByte with
    | none => exact ⟨q, by simpa [State.transfer, hp, hb] using ⟨hq, hd⟩⟩
    | some b =>
      rw [transfer_of_payload hp hb]
      exact payloadRow_data hb hq hd
  | idle | magic0 | magic1 | type | lenHi | lenLo | chk => simpa [State.transfer, hp] using h

/-- No more bytes are sent than the frame has (30_encoding.md R67). -/
theorem State.sentSoFar_length_le (h : s.FramerInv) : s.sentSoFar.length ≤ s.llen.toNat + 6 := by
  obtain ⟨-, hlatch⟩ := h
  cases hp : s.phase with
  | payload | chk | flush =>
    simp only [State.LatchInv, hp] at hlatch
    simp [State.sentSoFar, State.summedSoFar, checksummed, hp]
    omega
  | idle | magic0 | magic1 | type | lenHi | lenLo =>
    simp [State.sentSoFar, State.summedSoFar, hp]

end Rows

namespace State.Sending

variable {s : State} {before : List Event} {t : Byte} {p : List Byte}

theorem tick (h : s.Sending before t p) : s.tick.Sending before t p :=
  ⟨h.framer, h.phase, h.out, h.ltype, h.llen, h.data⟩

theorem sentSoFar_length_le (h : s.Sending before t p) : s.sentSoFar.length ≤ p.length + 6 :=
  h.llen ▸ State.sentSoFar_length_le h.framer

/-- PAYLOAD never has to wait for a byte (60_exceptions.md R166 row 5). -/
theorem payloadByte_ne_none (h : s.Sending before t p) (hp : s.phase = .payload) :
    s.payloadByte ≠ none := by
  obtain ⟨-, hlt, -⟩ := (framerInv_iff_of_payload hp).mp h.framer
  obtain ⟨q, hq, hd⟩ := h.data
  cases hl : s.lpay[s.idx.toNat]? with
  | some b => simp [payloadByte_of_latched hl]
  | none =>
    cases q with
    | nil =>
      have hlen : s.lpay.length = p.length := by simp [← hd]
      rw [List.getElem?_eq_none_iff, hlen, ← h.llen] at hl
      omega
    | cons b q => simp [payloadByte_of_port hl hq]

/-- A row other than FLUSH sends one byte more of the same frame. -/
theorem transfer (h : s.Sending before t p) (hl : s.phase ≠ .flush) :
    s.transfer.Sending before t p ∧ s.transfer.sentSoFar.length = s.sentSoFar.length + 1 := by
  obtain ⟨b, hout, hsent⟩ := transfer_sends_byte h.phase hl h.payloadByte_ne_none h.framer
  obtain ⟨hphase, htype, hlen⟩ := transfer_keeps_frame h.phase hl
  exact ⟨{ framer := framerInv_transfer h.framer
           phase := hphase
           out := by rw [hout, hsent, h.out]; simp
           ltype := htype.trans h.ltype
           llen := hlen ▸ h.llen
           data := transfer_data hl h.data }, by simp [hsent]⟩

/-- In FLUSH the whole payload is latched and the port is empty. -/
theorem lpay_eq_of_flush (h : s.Sending before t p) (hp : s.phase = .flush) :
    s.lpay = p ∧ s.port = [] := by
  have hfr := h.framer
  simp only [State.FramerInv, State.LatchInv, hp] at hfr
  obtain ⟨-, hlen⟩ := hfr
  obtain ⟨q, hq, hd⟩ := h.data
  have hnil : q = [] := by
    have := congrArg List.length hd
    rw [List.length_append, hlen, h.llen] at this
    exact List.length_eq_zero_iff.mp (by omega)
  exact ⟨by simpa [hnil] using hd, by simp [hq, hnil]⟩

/-- FLUSH completes the frame and leaves the framer in IDLE with nothing on the port. -/
theorem flush (h : s.Sending before t p) (hp : s.phase = .flush) :
    s.transfer.out = before ++ frameEvents t p ∧ s.transfer.phase = .idle ∧
      s.transfer.port = [] := by
  obtain ⟨hpay, hq⟩ := h.lpay_eq_of_flush hp
  rw [transfer_of_flush hp]
  refine ⟨?_, rfl, hq⟩
  rw [retire_out, flush_out, h.out, sentSoFar_of_flush hp h.framer, h.ltype, hpay, frameEvents,
    List.append_assoc]

end State.Sending

/-- Nothing hinders a frame for ever: the block is not in the fault state, no reset comes, and after
finitely many steps the sink accepts (70_reset_and_hazards.md R178; log entry 3). -/
structure State.ServedFairly (s : State) : Prop where
  faulted : s.faulted = false
  noReset : s.noReset
  sinkFair : s.sinkFair

namespace State.ServedFairly

variable {s : State}

theorem tick (h : s.ServedFairly) : s.tick.ServedFairly :=
  ⟨h.faulted, h.noReset.tick, h.sinkFair⟩

theorem congr {u : State} (h : s.ServedFairly) (hs : u.status = s.status)
    (hp : u.pins = s.pins) (ha : u.pinsAfter = s.pinsAfter) : u.ServedFairly :=
  ⟨(State.faulted_congr hs).trans h.faulted, by simpa [State.noReset, hp, ha] using h.noReset,
    by simpa [State.sinkFair, ha] using h.sinkFair⟩

/-- The sink stalls only in the steps that the list of input wires covers. -/
theorem pins_ne_nil_of_sinkBusy (h : s.ServedFairly) (hs : s.pin.sinkReady = false) :
    s.pins ≠ [] := fun hnil => by
  rw [s.pin_of_nil hnil, h.sinkFair] at hs
  cases hs

end State.ServedFairly

/-- One step for each stall at most, each byte not yet sent and the Flush complete a frame in progress,
by induction on the steps: each shortens the list of input wires or sends a byte, and the last takes the
block to rest (42_packet_framer.md R108, R109; 70_reset_and_hazards.md R178). -/
theorem run_of_sending {before : List Event} {t : Byte} {p : List Byte} {n : Nat} {s : State}
    (h : s.Sending before t p) (hf : s.ServedFairly)
    (hn : s.pins.length + p.length + 7 ≤ n + s.sentSoFar.length) :
    ∃ u, core.run n s = .next u ∧ u.context = s.context ∧
      u.AtRest (before ++ frameEvents t p) := by
  induction n generalizing s with
  | zero =>
    have := h.sentSoFar_length_le
    omega
  | succ n ih =>
    have hlen := s.pins.length_tail
    cases hs : s.pin.sinkReady with
    | false =>
      have hpos := List.length_pos_iff.mpr (hf.pins_ne_nil_of_sinkBusy hs)
      rw [run_succ_of_step (step_of_sinkBusy hf.noReset.pin_reset hf.faulted h.phase hs)]
      refine ih h.tick hf.tick ?_
      rw [State.tick_pins, State.tick_sentSoFar]
      omega
    | true =>
      rw [run_succ_of_step (step_of_row hf.noReset.pin_reset hf.faulted h.phase hs
        h.payloadByte_ne_none)]
      have hf' : s.tick.transfer.ServedFairly := hf.tick.congr (by simp) (by simp) (by simp)
      by_cases hp : s.phase = .flush
      · obtain ⟨hout, hi, hq⟩ := h.tick.flush hp
        refine ⟨_, run_of_empty_port hf'.noReset hi hq n, s.tick.transfer_context, hout, hi, hq, ?_⟩
        have := h.sentSoFar_length_le
        rw [State.transfer_pins, State.tick_pins]
        exact List.drop_of_length_le (by omega)
      · obtain ⟨h', hone⟩ := h.tick.transfer hp
        rw [← s.tick_context, ← s.tick.transfer_context]
        refine ih h' hf' ?_
        rw [hone, State.transfer_pins, State.tick_pins, State.tick_sentSoFar]
        omega

/-! The two levels agree. -/

/-- CNT after a command, and the position moved on by it; the rest of the context is as before. -/
def State.contextAfter (s : State) (i : Instr) : Word × Byte × Word × Pins × Nat × Level :=
  (counterAfter s.cnt i, s.status, s.faultHdr, s.pinsAfter, s.pos + 1, s.level)

/-- A command that has started at the byte-serial level, with nothing after it on the port, reaches what
its one transaction step gives (42_packet_framer.md R108). -/
theorem serial_run_agrees {s s' : State} {i : Instr} (hi : i.WellFormed) (hf : s.ServedFairly)
    (hp : s.phase = .idle) (hstep : step s = .next s')
    (hs : s'.Sending s.out (commandFrame s.cnt i).1 (commandFrame s.cnt i).2)
    (hc : s'.context = s.contextAfter i) (hpins : s'.pins = s.pins.tail) :
    ∃ u v, core.run (s.pins.length + (commandFrame s.cnt i).2.length + 8) s = .next u ∧
      exec i { s with port := [], pos := s.pos + 1, pins := [] } = .next v ∧ u.Agree v := by
  have hf' : s'.ServedFairly := by
    simp only [State.context, State.contextAfter, Prod.mk.injEq] at hc
    obtain ⟨-, hstatus, -, hafter, -⟩ := hc
    exact hf.tick.congr hstatus hpins hafter
  obtain ⟨u, hrun, hctx, hrest⟩ := run_of_sending hs hf'
    (n := s.pins.length + (commandFrame s.cnt i).2.length + 7)
    (by have := s.pins.length_tail; rw [hpins]; omega)
  have hv := exec_of_enabled hi (s := { s with port := [], pos := s.pos + 1, pins := [] })
    (s.enabled_iff.mpr ⟨hf.faulted, hp⟩)
  refine ⟨u, _, (run_succ_of_step hstep _).trans hrun, hv, hrest.agree ?_ ?_⟩
  · simp [State.AtRest, State.complete]
  · rw [hctx, hc]
    simp [State.context, State.contextAfter, State.complete]

/-- Settles O39: a FRAME starts with its payload on the port and none of it latched. -/
theorem byteSerialFrameAgreesWithTheTransaction :
    Obligations.ByteSerialFrameAgreesWithTheTransaction := by
  intro s t p hl hf hi hr hs hp hq
  rw [encode_frame t hp] at hq
  refine serial_run_agrees (i := .frame t p) (decide_eq_true hp) ⟨hf, hr, hs⟩ hi
    (step_of_frame_header hr.pin_reset hf hi hl hq (decodeHeader_frameHeader _ _)) ?_ rfl rfl
  exact { framer := State.framerInv_latch _ t (.inl rfl)
          phase := nofun
          out := (List.append_nil _).symm
          ltype := rfl
          llen := toNat_ofNat_length hp
          data := ⟨p, rfl, rfl⟩ }

/-- Settles O40: a TLM starts with its whole record latched and nothing left on the port. -/
theorem byteSerialTlmAgreesWithTheTransaction :
    Obligations.ByteSerialTlmAgreesWithTheTransaction := by
  intro s w hl hf hi hr hs hq
  refine serial_run_agrees (i := .tlm w) rfl ⟨hf, hr, hs⟩ hi
    (step_of_tlm_header hr.pin_reset hf hi hl hq) ?_ rfl rfl
  exact { framer := State.framerInv_latch _ _ (.inr rfl)
          phase := nofun
          out := (List.append_nil _).symm
          ltype := rfl
          llen := rfl
          data := ⟨[], rfl, List.append_nil _⟩ }

end Sys2Proof.Machine

/-! The telemetry record (43_telemetry_serializer.md): its payload read back, its checksum byte, the TLM
command and the counters its frames carry in a run. -/

namespace Sys2Proof.Machine

/-- Four bytes little-endian as one sum (43_telemetry_serializer.md R132). -/
theorem leValue_four (a b c d : Byte) :
    leValue [a, b, c, d] = a.toNat + b.toNat * 2 ^ 8 + c.toNat * 2 ^ 16 + d.toNat * 2 ^ 24 := by
  simp only [leValue]
  omega

/-- Four bytes are the pattern of a 32-bit word, with none of their sum lost. -/
theorem toNat_ofNat_leValue_four (a b c d : Byte) :
    (BitVec.ofNat 32 (leValue [a, b, c, d])).toNat =
      a.toNat + b.toNat * 2 ^ 8 + c.toNat * 2 ^ 16 + d.toNat * 2 ^ 24 := by
  have ha := a.isLt
  have hb := b.isLt
  have hc := c.isLt
  have hd := d.isLt
  rw [BitVec.toNat_ofNat, leValue_four]
  omega

/-- A payload of two little-endian words is parsed as those words (43_telemetry_serializer.md R132). -/
theorem parseTelemetry_le32_append (c u : Word) :
    parseTelemetry (le32 c ++ le32 u) = some { counter := c, weightG := sint32 u } := by
  rw [parseTelemetry, if_pos (by simp), List.take_left' (le32_length c),
    List.drop_left' (le32_length c), leValue_le32, leValue_le32, BitVec.ofNat_toNat,
    BitVec.ofNat_toNat, BitVec.setWidth_eq, BitVec.setWidth_eq]

/-- ParseTelemetry undoes Serialize on a weight the spec gives bytes for (43_telemetry_serializer.md
R132). -/
theorem parseTelemetry_serialize {r : TelemetryRecord} (h : IsS32 r.weightG) :
    parseTelemetry (serialize r) = some r := by
  rw [serialize, parseTelemetry_le32_append, sint32_bits32 _ h]

/-- Settles O13: each half of the payload is a word read little-endian, and Serialize writes it so. -/
theorem parseTelemetryRecoversTheRecord : Obligations.ParseTelemetryRecoversTheRecord := by
  refine ⟨fun q0 q1 q2 q3 q4 q5 q6 q7 => ?_, fun c w hw => parseTelemetry_serialize hw⟩
  refine ⟨_, rfl, toNat_ofNat_leValue_four q0 q1 q2 q3, isS32_weightOf _, ?_⟩
  exact (congrArg BitVec.toNat (bits32_sint32 _)).trans (toNat_ofNat_leValue_four q4 q5 q6 q7)

/-- The checksum of a telemetry frame is the fold of its type and length, 0x09, and of the record's two
words (43_telemetry_serializer.md R136). -/
theorem xorFold_checksummed_serialize (r : TelemetryRecord) :
    xorFold (checksummed Config.typeTelemetry Config.tlmPayloadLen (serialize r)) =
      (0x09 ^^^ xorFold (le32 r.counter)) ^^^ xorFold (le32 (bits32 r.weightG)) := by
  have hhead : xorFold [Config.typeTelemetry, (lenEncode Config.tlmPayloadLen).1,
      (lenEncode Config.tlmPayloadLen).2] = 0x09 := by decide
  rw [checksummed, serialize, xorFold_append, xorFold_append, hhead, BitVec.xor_assoc]

/-- The last byte of a telemetry frame is its checksum (43_telemetry_serializer.md R136). -/
theorem buildFrame_serialize_getElem?_checksum (r : TelemetryRecord) :
    (buildFrame Config.typeTelemetry (serialize r))[13]? =
      some ((0x09 ^^^ xorFold (le32 r.counter)) ^^^ xorFold (le32 (bits32 r.weightG))) := by
  rw [buildFrame_serialize, xorFold_checksummed_serialize]
  rfl

/-- Settles O14: the general byte, and its value for the spec's worked record. -/
theorem telemetryChecksum : Obligations.TelemetryChecksum := by
  refine ⟨fun c w => buildFrame_serialize_getElem?_checksum _, ?_⟩
  have hvalue : (0x09 ^^^ xorFold (le32 0)) ^^^ xorFold (le32 (bits32 3500)) = 0xA8 := by decide
  exact (buildFrame_serialize_getElem?_checksum _).trans (congrArg some hvalue)

/-- Settles O16: an enabled TLM completes, and 1 is added to CNT modulo 2^32. -/
theorem tlmFramesTheRecordAndAdvancesCnt : Obligations.TlmFramesTheRecordAndAdvancesCnt := by
  intro s w hf hi
  refine ⟨s.complete (.tlm w), exec_of_enabled rfl (s.enabled_iff.mpr ⟨hf, hi⟩), ?_⟩
  simp [State.complete, commandFrame, counterAfter, frameEvents, Config.typeTelemetry, weightOf, sint32]

/-- The frame at a place in a run is that of the command there, made with CNT as the run found it plus the
number of TLMs before that place (20_memory.md R50; 43_telemetry_serializer.md R135). -/
theorem commandFrames_getElem? (c : Word) (is : List Instr) (k : Nat) :
    (commandFrames c is)[k]? =
      is[k]?.map (commandFrame (c + BitVec.ofNat 32 (tlmCount (is.take k)))) := by
  induction is generalizing c k with
  | nil => rfl
  | cons i is ih =>
    cases k with
    | zero => simp [commandFrames, tlmCount]
    | succ k =>
      rw [commandFrames, List.getElem?_cons_succ, ih, counterAfter_add_tlmCount,
        List.getElem?_cons_succ, List.take_succ_cons]

theorem commandFrames_length (c : Word) (is : List Instr) :
    (commandFrames c is).length = is.length := by
  induction is generalizing c with
  | nil => rfl
  | cons i is ih => simp only [commandFrames, List.length_cons, ih]

/-- Settles O47: the frames of the run of O46, read at each place. -/
theorem telemetryFramesCarryConsecutiveCounters :
    Obligations.TelemetryFramesCarryConsecutiveCounters := by
  intro is s rest hwf hl hf hp hpins hafter hq
  obtain ⟨u, hrun, hout, -⟩ := commandsRunInPortOrder is s rest hwf hl hf hp hpins hafter hq
  refine ⟨u, commandFrames s.cnt is, hrun, hout, commandFrames_length _ _, ?_, ?_⟩
  · intro k w hk
    have hframe := commandFrames_getElem? s.cnt is k
    rw [hk] at hframe
    exact ⟨_, hframe, _, parseTelemetry_serialize (isS32_weightOf w), rfl, by simp⟩
  · intro k t p hk
    rw [commandFrames_getElem?, hk]
    rfl

end Sys2Proof.Machine

/-! The fault state (60_exceptions.md R150 to R157): the way in, the hold, the way out, and the one term
that is refused before it. -/

namespace Sys2Proof.Machine

/-- A header faults for an op that is neither FRAME's nor TLM's, or for a TLM whose reserved bits are not
all zero (30_encoding.md R63; 60_exceptions.md R150). -/
theorem decodeHeader_fault_cases {hdr : Word} {k : Cause} (h : decodeHeader hdr = .fault k) :
    (hdr.toNat / 2 ^ 24 ≠ 1 ∧ hdr.toNat / 2 ^ 24 ≠ 2 ∧ k = .illegalOp) ∨
      (hdr.toNat / 2 ^ 24 = 2 ∧ hdr.toNat % 2 ^ 24 ≠ 0 ∧ k = .reservedNonzero) := by
  obtain ⟨-, -, hall⟩ := everyHeaderDecodesByOpThenReservedBits
  obtain ⟨hframe, htlm, hreserved, hillegal⟩ := hall hdr
  by_cases h1 : hdr.toNat / 2 ^ 24 = 1
  · cases h.symm.trans (hframe h1)
  by_cases h2 : hdr.toNat / 2 ^ 24 = 2
  · by_cases hr : hdr.toNat % 2 ^ 24 = 0
    · cases h.symm.trans (htlm h2 hr)
    · cases h.symm.trans (hreserved h2 hr)
      exact .inr ⟨h2, hr, rfl⟩
  · cases h.symm.trans (hillegal h1 h2)
    exact .inl ⟨h1, h2, rfl⟩

@[simp] theorem State.enterFault_faulted (s : State) (k : Cause) (hdr : Word) :
    (s.enterFault k hdr).faulted = true := by
  simp [State.faulted_eq]

@[simp] theorem State.applyReset_faulted (s : State) : s.applyReset.faulted = false := by
  simp [State.faulted_eq, faultBit]

theorem State.enabled_of_faulted {s : State} (h : s.faulted = true) : s.enabled = false := by
  simp [State.enabled, h]

/-- STATUS.FAULT is kept by every step but a reset and one that takes a faulting header (10_state.md R23,
R27). -/
theorem step_faulted_cases {s u : State} (h : step s = .next u) :
    (s.pin.reset = true ∧ u = s.tick.applyReset) ∨
    (∃ k hdr rest, s.port = .word hdr :: rest ∧ decodeHeader hdr = .fault k ∧
      u = (s.tick.consume rest).enterFault k hdr) ∨
    u.faulted = s.faulted := by
  rcases step_cases h with hreset | ⟨-, rfl⟩ | ⟨k, hdr, rest, -, -, hq, hd, hu⟩ |
    ⟨t, p, rest, -, -, -, -, -, rfl⟩ | ⟨w, rest, -, -, -, -, rfl⟩ | ⟨t, n, rest, -, -, -, -, rfl⟩ |
    ⟨w, rest, -, -, -, -, rfl⟩ | ⟨-, -, -, -, -, rfl⟩
  · exact .inl hreset
  · exact .inr (.inr rfl)
  · exact .inr (.inl ⟨k, hdr, rest, hq, hd, hu⟩)
  · exact .inr (.inr (State.faulted_congr (by simp)))
  · exact .inr (.inr (State.faulted_congr (by simp)))
  · exact .inr (.inr rfl)
  · exact .inr (.inr rfl)
  · exact .inr (.inr (State.faulted_congr (by simp)))

/-- Settles O26: of the two steps that do not keep STATUS.FAULT a faulting header sets it, so the step is
the reset. -/
theorem onlyResetLeavesTheFaultState : Obligations.OnlyResetLeavesTheFaultState := by
  intro s u hs h hu
  rcases step_faulted_cases h with ⟨hr, rfl⟩ | ⟨k, hdr, rest, -, -, rfl⟩ | hkeep
  · exact ⟨hr, rfl, rfl, rfl⟩
  · simp at hu
  · simp [hkeep, hs] at hu

/-- Settles O27: of the two steps that do not keep STATUS.FAULT a reset clears it, so the step took a
header that decodes to a fault, and the decoder has two kinds of those. -/
theorem onlyTheTwoHeaderKindsFault : Obligations.OnlyTheTwoHeaderKindsFault := by
  intro s u hs h hu
  rcases step_faulted_cases h with ⟨-, rfl⟩ | ⟨k, hdr, rest, hq, hd, rfl⟩ | hkeep
  · simp at hu
  · refine ⟨hdr, rest, hq, rfl, ?_⟩
    rcases decodeHeader_fault_cases hd with ⟨h1, h2, rfl⟩ | ⟨h2, hr, rfl⟩
    · exact .inl ⟨h1, h2, by simp [causeCode]⟩
    · exact .inr ⟨h2, hr, by simp [causeCode]⟩
  · simp [hkeep, hs] at hu

/-- A well-formed command that is not enabled holds: in the fault state, or with a frame in progress
(60_exceptions.md R153; 70_reset_and_hazards.md R176). -/
theorem exec_of_not_enabled {i : Instr} (hi : i.WellFormed) {s : State} (he : s.enabled = false) :
    exec i s = .next s := by
  cases i with
  | frame t p => exact (execFrame_eq_next t (of_decide_eq_true hi) s).trans (by simp [he])
  | tlm w => exact (execTlm_eq_next w s).trans (by simp [he])

/-- Settles O18: no command is enabled in the fault state. -/
theorem commandsHoldInTheFaultState : Obligations.CommandsHoldInTheFaultState :=
  fun _ _ hf hi => exec_of_not_enabled hi (State.enabled_of_faulted hf)

/-- Settles O23: the next action is the hold of the fault state. -/
theorem faultStateHoldsUntilReset : Obligations.FaultStateHoldsUntilReset :=
  fun _ hf hr => step_of_hold (why := .faulted) (by simp [State.nextAction, hr, hf])

/-- A faulting header is the next action in IDLE outside the fault state, at either level and whatever the
sink does (60_exceptions.md R151; log entry 13). -/
theorem nextAction_of_faulting_header {s : State} {k : Cause} {hdr : Word} {rest : List Beat}
    (hr : s.pin.reset = false) (hf : s.faulted = false) (hp : s.phase = .idle)
    (hq : s.port = .word hdr :: rest) (hd : decodeHeader hdr = .fault k) :
    s.nextAction = .takeFault k hdr rest := by
  cases hl : s.level with
  | transaction =>
    simp [State.nextAction, State.transactionAction, hr, hf, hp, hl, hq, fetch_of_fault hd]
  | byteSerial => simp [State.nextAction, State.startAction, hr, hf, hp, hl, hq, hd]

/-- Settles O22: the header is taken off the port and the fault state entered, and nothing else is
written. -/
theorem faultingHeaderEntersTheFaultState : Obligations.FaultingHeaderEntersTheFaultState := by
  intro s k hdr rest hr hf hp hq hd
  have hstep : step s = .next ((s.tick.consume rest).enterFault k hdr) := by
    simp only [step, nextAction_of_faulting_header hr hf hp hq hd, perform]
  exact ⟨_, hstep, by simp, by simp, by simp, rfl, rfl, rfl, rfl, rfl, by simp⟩

/-- Settles O19: a payload over 65535 bytes does not fit, and a fetched FRAME is well-formed. -/
theorem overLongFrameIsRefusedAndUnencodable : Obligations.OverLongFrameIsRefusedAndUnencodable := by
  refine ⟨fun s t p hp => exec_frame_of_not_fits t hp.not_ge s, fun bs rest t p h => ?_⟩
  obtain ⟨hwf, -⟩ := decodedCommandsAreWellFormedEncodings bs _ rest h
  exact of_decide_eq_true hwf

/-! Presenting a line (30_encoding.md R71; 60_exceptions.md R157). -/

/-- A well-formed command is presented by its encoded form, after what the port has. -/
theorem State.present_of_wellFormed (s : State) {i : Instr} (hi : i.WellFormed) :
    s.present (.command (.instr i)) = .next { s with port := s.port ++ encode i } := if_pos hi

/-- A FRAME term whose payload does not fit is refused when presented. -/
theorem State.present_frame_of_not_fits (s : State) (t : Byte) {p : List Byte} (hp : ¬ PayloadFits p) :
    s.present (.command (.instr (.frame t p))) = .refused .payloadTooLong :=
  if_neg fun hwf => hp (of_decide_eq_true hwf)

/-- A line that is refused when presented is not run. -/
theorem State.runLine_of_present_refused {s : State} {l : Line} {r : Refusal}
    (h : s.present l = .refused r) : s.runLine l = .refused r := by
  simp only [State.runLine, h]

/-- A refused line marks the whole run refused (00_scope.md R10). -/
theorem runLines_cons_of_refused {s : State} {l : Line} {r : Refusal} (h : s.runLine l = .refused r)
    (ls : List Line) : runLines (l :: ls) s = .refused r := by
  simp only [runLines, h]

/-- Settles O20: the refusal of the line presented goes up to the line run and to the program. -/
theorem presentingAnOverLongFrameRefusesTheRun :
    Obligations.PresentingAnOverLongFrameRefusesTheRun := by
  refine ⟨fun s t p hp => ?_, fun s i => s.present_of_wellFormed, fun s hdr => rfl⟩
  have hpresent := s.present_frame_of_not_fits t (p := p) hp.not_ge
  have hrun := State.runLine_of_present_refused hpresent
  exact ⟨hpresent, hrun, runLines_cons_of_refused hrun⟩

end Sys2Proof.Machine

/-! Reset and the hazards of a frame in progress (70_reset_and_hazards.md): what a reset leaves, the first
TLM after it, a sink that never accepts, and the frame that nothing but its Flush ends. -/

namespace Sys2Proof.Machine

/-! The reset step. -/

/-- Reset comes before everything else a step could do (60_exceptions.md R156). -/
theorem step_of_reset {s : State} (hr : s.pin.reset = true) : step s = .next s.tick.applyReset := by
  simp only [step, State.nextAction, hr, if_true, perform]

/-- Data bytes before a header word are off the port after a reset, and the header stays
(70_reset_and_hazards.md R172; log entry 6). -/
theorem dropWhile_isByteBeat_append (left : List Byte) (hdr : Word) (rest : List Beat) :
    (left.map Beat.byte ++ .word hdr :: rest).dropWhile isByteBeat = .word hdr :: rest := by
  induction left with
  | nil => rfl
  | cons b left ih => exact ih

/-- Settles O24: the step is the reset, which keeps OUT, the position and a header on the port. -/
theorem resetSetsTheResetValuesAndKeepsOut : Obligations.ResetSetsTheResetValuesAndKeepsOut := by
  refine fun s hr => ⟨_, step_of_reset hr, rfl, rfl, rfl, rfl, rfl, rfl, fun hdr rest hq => ?_⟩
  rw [State.applyReset_port, State.tick_port, hq]
  exact dropWhile_isByteBeat_append [] hdr rest

/-! The first TLM after a reset at the transaction level. -/

/-- A command's encoded form begins with its header word (30_encoding.md R60). -/
theorem encode_eq_header_cons {i : Instr} (hi : i.WellFormed) :
    ∃ hdr data, encode i = .word hdr :: data := by
  cases i with
  | frame t p => exact ⟨_, _, encode_frame t (of_decide_eq_true hi)⟩
  | tlm w => exact ⟨_, _, encode_tlm w⟩

/-- A reset leaves commands that wait on the port there (60_exceptions.md R156 a). -/
theorem dropWhile_isByteBeat_commands {is : List Instr} (hne : is ≠ [])
    (hwf : ∀ i ∈ is, i.WellFormed) (rest : List Beat) :
    (is.flatMap encode ++ rest).dropWhile isByteBeat = is.flatMap encode ++ rest := by
  obtain ⟨i, is, rfl⟩ := List.exists_cons_of_ne_nil hne
  obtain ⟨hdr, data, hi⟩ := encode_eq_header_cons (hwf i List.mem_cons_self)
  rw [List.flatMap_cons, hi]
  exact dropWhile_isByteBeat_append [] hdr _

/-- A sequence of FRAMEs, by type and payload, and then the first TLM (70_reset_and_hazards.md R174). -/
def framesThenTlm (fs : List (Byte × List Byte)) (w : Word) : List Instr :=
  fs.map (fun f => .frame f.1 f.2) ++ [.tlm w]

section FramesThenTlm

variable (fs : List (Byte × List Byte)) (w : Word)

theorem framesThenTlm_ne_nil : framesThenTlm fs w ≠ [] :=
  List.append_ne_nil_of_right_ne_nil _ (List.cons_ne_nil _ _)

theorem framesThenTlm_length : (framesThenTlm fs w).length = fs.length + 1 := by
  simp [framesThenTlm]

theorem framesThenTlm_flatMap_encode : (framesThenTlm fs w).flatMap encode =
    fs.flatMap (fun f => encode (.frame f.1 f.2)) ++ encode (.tlm w) := by
  simp [framesThenTlm, List.flatMap_map]

theorem framesThenTlm_wellFormed (h : ∀ f ∈ fs, f.2.length ≤ 65535) :
    ∀ i ∈ framesThenTlm fs w, i.WellFormed := by
  intro i hi
  rcases List.mem_append.mp hi with hi | hi
  · obtain ⟨f, hf, rfl⟩ := List.mem_map.mp hi
    exact decide_eq_true (h f hf)
  · cases List.mem_singleton.mp hi
    rfl

theorem tlmCount_framesThenTlm : tlmCount (framesThenTlm fs w) = 1 := by
  have hnone : (fs.map fun f => Instr.frame f.1 f.2).countP isTlm = 0 := by
    simp [List.countP_eq_zero, isTlm]
  rw [tlmCount, framesThenTlm, List.countP_append, hnone]
  rfl

/-- FRAMEs leave CNT to the TLM after them as they found it (43_telemetry_serializer.md R134). -/
theorem commandFrames_framesThenTlm (c : Word) :
    commandFrames c (framesThenTlm fs w) = fs ++ [commandFrame c (.tlm w)] := by
  induction fs with
  | nil => rfl
  | cons f fs ih => exact congrArg (f :: ·) ih

end FramesThenTlm

/-- Settles O25: the commands wait on the port through the reset, and then run in port order from CNT =
0. -/
theorem firstTlmAfterResetCarriesZero : Obligations.FirstTlmAfterResetCarriesZero := by
  intro s fs w rest ready hpins hafter hl hfs hq
  have hr : s.pin.reset = true := by rw [s.pin_of_cons hpins]
  have hwf := framesThenTlm_wellFormed fs w hfs
  have hport : s.tick.applyReset.port = (framesThenTlm fs w).flatMap encode ++ rest := by
    rw [State.applyReset_port, State.tick_port, hq, ← framesThenTlm_flatMap_encode]
    exact dropWhile_isByteBeat_commands (framesThenTlm_ne_nil fs w) hwf rest
  obtain ⟨u, hrun, hout, hcnt, -, hrest, hstatus, hhdr⟩ :=
    commandsRunInPortOrder _ s.tick.applyReset rest hwf hl s.tick.applyReset_faulted rfl
      (by simp [hpins]) hafter hport
  rw [framesThenTlm_length] at hrun
  refine ⟨u, (run_succ_of_step (step_of_reset hr) _).trans hrun, ?_, ?_, hstatus, hhdr, hrest⟩
  · rw [hout, commandFrames_framesThenTlm]
    simp [framesEvents, commandFrame, Config.typeTelemetry, weightOf, sint32]
  · rw [hcnt, tlmCount_framesThenTlm]
    rfl

/-! No frame is in progress between steps at the transaction level. -/

/-- No step changes the level of the run (log entry 1). -/
theorem step_level {s u : State} (h : step s = .next u) : u.level = s.level := by
  rcases step_cases h with ⟨-, rfl⟩ | ⟨-, rfl⟩ | ⟨k, hdr, rest, -, -, -, -, rfl⟩ |
    ⟨t, p, rest, -, -, -, -, -, rfl⟩ | ⟨w, rest, -, -, -, -, rfl⟩ | ⟨t, n, rest, -, -, -, -, rfl⟩ |
    ⟨w, rest, -, -, -, -, rfl⟩ | ⟨-, -, -, -, -, rfl⟩
  · rfl
  · rfl
  · rfl
  · simp
  · simp
  · rfl
  · rfl
  · obtain ⟨-, -, -, hlevel⟩ := s.tick.transfer_keeps_inputs
    exact hlevel

/-- At the transaction level a step from IDLE ends in IDLE: only the byte-serial level starts a frame
without sending it whole (42_packet_framer.md R101, R106). -/
theorem step_phase_of_transaction {s u : State} (hl : s.level = .transaction) (hp : s.phase = .idle)
    (h : step s = .next u) : u.phase = .idle := by
  rcases step_cases h with ⟨-, rfl⟩ | ⟨-, rfl⟩ | ⟨k, hdr, rest, -, -, -, -, rfl⟩ |
    ⟨t, p, rest, -, -, -, -, -, rfl⟩ | ⟨w, rest, -, -, -, -, rfl⟩ | ⟨t, n, rest, -, -, hb, -, -⟩ |
    ⟨w, rest, -, -, hb, -, -⟩ | ⟨-, -, hi, -⟩
  · rfl
  · exact hp
  · exact hp
  · simp
  · simp
  · cases hl.symm.trans hb
  · cases hl.symm.trans hb
  · exact absurd hp hi

/-- Settles O35: in IDLE no step cuts a frame, so O33 keeps OUT framed, and IDLE is kept. -/
theorem transactionStepsNeverCutAFrame : Obligations.TransactionStepsNeverCutAFrame := by
  intro s u hl hp hout h
  have hidle := step_phase_of_transaction hl hp h
  have hwire : u.WireInv :=
    everyStepKeepsOutFramed s u (State.framerInv_of_idle hp) ((State.wireInv_iff_of_idle hp).mpr hout)
      (fun ⟨_, hcut⟩ => hcut hp) h
  exact ⟨(step_level h).trans hl, hidle, (State.wireInv_iff_of_idle hidle).mp hwire⟩

/-! A sink that never accepts. -/

theorem State.sinkNeverAccepts.pin_sinkReady {s : State} (h : s.sinkNeverAccepts) :
    s.pin.sinkReady = false := by
  obtain ⟨hnow, hafter⟩ := h
  unfold State.pin
  split
  · exact hafter
  · next p ps hp => exact hnow p (by simp [hp])

theorem State.sinkNeverAccepts.tick {s : State} (h : s.sinkNeverAccepts) : s.tick.sinkNeverAccepts := by
  obtain ⟨hnow, hafter⟩ := h
  exact ⟨fun p hp => hnow p (List.mem_of_mem_tail hp), hafter⟩

/-- Settles O42, by induction on the steps: each is the hold of O41, and leaves what the next one needs for
its own. -/
theorem sinkThatNeverAcceptsHoldsForEver : Obligations.SinkThatNeverAcceptsHoldsForEver := by
  intro s hr hs hf h n
  induction n generalizing s with
  | zero => rfl
  | succ n ih =>
    have hstep : step s = .next s.tick :=
      sinkHoldChangesNothing s hr.pin_reset hs.pin_sinkReady hf h
    calc core.run (n + 1) s = core.run n s.tick := run_succ_of_step hstep n
      _ = .next { s with pins := s.pins.tail.drop n } := ih s.tick hr.tick hs.tick hf h
      _ = .next { s with pins := s.pins.drop (n + 1) } := by rw [List.drop_tail]

/-! A frame in progress. -/

/-- A frame in progress holds or takes one row; no command is taken (70_reset_and_hazards.md R176). -/
theorem step_cases_of_frame {s u : State} (hr : s.pin.reset = false) (hi : s.phase ≠ .idle)
    (h : step s = .next u) : u = s.tick ∨ u = s.tick.transfer := by
  have not_enabled : s.enabled ≠ true := fun he => hi (s.enabled_iff.mp he).2
  rcases step_cases h with ⟨hr', -⟩ | ⟨-, hu⟩ | ⟨_, _, _, -, he, -⟩ | ⟨_, _, _, -, he, -⟩ |
    ⟨_, _, -, he, -⟩ | ⟨_, _, _, -, he, -⟩ | ⟨_, _, -, he, -⟩ | ⟨-, -, -, -, -, hu⟩
  · simp [hr] at hr'
  · exact .inl hu
  · exact absurd he not_enabled
  · exact absurd he not_enabled
  · exact absurd he not_enabled
  · exact absurd he not_enabled
  · exact absurd he not_enabled
  · exact .inr hu

section Rows

variable {s : State}

/-- The byte of PAYLOAD is the next beat of the port when it is not latched already. -/
theorem State.port_of_payloadByte {b : Byte} (hl : s.lpay[s.idx.toNat]? = none)
    (hb : s.payloadByte = some b) : s.port = .byte b :: s.port.tail := by
  match hq : s.port with
  | .byte c :: rest =>
    cases (payloadByte_of_port hl hq).symm.trans hb
    rfl
  | [] | .word _ :: _ => cases hb.symm.trans (payloadByte_eq_none hl (by simp [hq]))

/-- A row takes at most one payload byte off the port (42_packet_framer.md R102). -/
theorem State.transfer_port :
    s.transfer.port = s.port ∨ ∃ b, s.port = .byte b :: s.transfer.port := by
  cases hp : s.phase with
  | payload =>
    cases hb : s.payloadByte with
    | none => simp [State.transfer, hp, hb]
    | some b =>
      rw [transfer_of_payload hp hb, payloadRow_port]
      cases hl : s.lpay[s.idx.toNat]? with
      | some c => exact .inl (by rw [latchPayload_of_latched hl])
      | none =>
        rw [latchPayload_of_port hl]
        exact .inr ⟨b, port_of_payloadByte hl hb⟩
  | idle | magic0 | magic1 | type | lenHi | lenLo | chk | flush => simp [State.transfer, hp]

end Rows

/-- Settles O44: a hold changes none of it, and of the rows only FLUSH ends in IDLE. -/
theorem noCommandStartsDuringAFrame : Obligations.NoCommandStartsDuringAFrame := by
  intro s u hr hi h
  rcases step_cases_of_frame hr hi h with rfl | rfl
  · exact ⟨rfl, rfl, .inl rfl, fun hidle => absurd hidle hi⟩
  · obtain ⟨-, -, hpos, -⟩ := s.tick.transfer_keeps_inputs
    refine ⟨hpos, s.tick.transfer_cnt, State.transfer_port (s := s.tick), fun hidle => ?_⟩
    have hp : s.phase = .flush := by
      by_contra hl
      obtain ⟨hphase, -⟩ := State.transfer_keeps_frame (s := s.tick) hi hl
      exact hphase hidle
    exact ⟨hp, by rw [State.transfer_of_flush (s := s.tick) hp]; rfl⟩

/-! The TLM after a frame that a reset cut. -/

/-- A TLM alone on the port of an idle block, the sink accepting, is sent whole in 16 byte-serial steps:
what O40 compares with the transaction, read off (42_packet_framer.md R108). -/
theorem run_of_tlm_alone {s : State} {w : Word} (hl : s.level = .byteSerial) (hf : s.faulted = false)
    (hi : s.phase = .idle) (hpins : s.pins = [])
    (hafter : s.pinsAfter = { reset := false, sinkReady := true }) (hq : s.port = encode (.tlm w)) :
    ∃ u, core.run 16 s = .next u ∧
      u.out = s.out ++ frameEvents Config.typeTelemetry (serialize (s.record w)) ∧
      u.cnt = s.cnt + 1 ∧ u.phase = .idle ∧ u.port = [] := by
  obtain ⟨u, v, hrun, hexec, hagree⟩ := byteSerialTlmAgreesWithTheTransaction s w hl hf hi
    ⟨by simp [hpins], by simp [hafter]⟩ (by simp [State.sinkFair, hafter]) hq
  have hdone := exec_of_enabled (i := .tlm w) rfl
    (s := { s with port := [], pos := s.pos + 1, pins := [] }) (s.enabled_iff.mpr ⟨hf, hi⟩)
  cases hdone.symm.trans hexec
  obtain ⟨hcnt, -, -, hout, hphase, hport, -⟩ := hagree
  rw [hpins] at hrun
  exact ⟨u, hrun, hout.trans (State.sendFrame_out _ _ _), hcnt, hphase, hport⟩

/-- Settles O45: the reset leaves the TLM alone on the port of an idle block with CNT = 0, and a TLM alone
is sent whole. -/
theorem midFrameResetTruncatesAndStartsAgain : Obligations.MidFrameResetTruncatesAndStartsAgain := by
  intro s left w ready hl _ hpins hafter hq
  have hstep := step_of_reset (s := s) (by rw [s.pin_of_cons hpins])
  have hport : s.tick.applyReset.port = encode (.tlm w) := by
    rw [State.applyReset_port, State.tick_port, hq, encode_tlm]
    exact dropWhile_isByteBeat_append left _ _
  obtain ⟨u, hrun, hout, hcnt, hphase, hleft⟩ :=
    run_of_tlm_alone (s := s.tick.applyReset) hl s.tick.applyReset_faulted rfl (by simp [hpins]) hafter
      hport
  exact ⟨⟨_, hstep, rfl, rfl, rfl, hport⟩, u, (run_succ_of_step hstep 16).trans hrun, hout, hcnt, hphase,
    hleft⟩

end Sys2Proof.Machine
